-- ==== Sys2Proof/Word.lean ====
section
/-! DEFINITION. The two word sizes of the machine and the name of a general register (00_scope.md section 6,
10_state.md R20, R24). -/

namespace Sys2Proof

/-- `u8`: a general register, a timer, a byte of memory. -/
abbrev Byte := BitVec 8

/-- `u16`: the index register, the program counter, a return address, an opcode. -/
abbrev Word := BitVec 16

/-- A general register `V0` to `VF`, named by its index 0x0 to 0xF (10_state.md R20). -/
abbrev Reg := Fin 16

/-- `VF`, register 15, which is also the only flag (10_state.md R22). -/
abbrev vF : Reg := 15

/-- A colour of a pixel buffer. The spec gives colours no format and no rule computes with one
(44_display_frame.md R185): DESIGN CHOICE, log 9. -/
abbrev Colour := Nat

end Sys2Proof
end

