-- ==== Sys2Proof/Syntax.lean ====
section
/-! DEFINITION. The instruction set as syntax: one constructor per row of spec/opcode_table.json, in the table's order
(30_encoding.md R70). Operands are as rule R73 assembles them: a register is named by its index, `nn` is a byte,
`nnn` is the 12-bit address zero-extended to 16 bits, `n` is a count. -/

namespace Sys2Proof

inductive Instr where
  /-- `00E0` CLS. -/
  | cls
  /-- `00EE` RET. -/
  | ret
  /-- `1nnn` JP nnn. -/
  | jp (nnn : Word)
  /-- `2nnn` CALL nnn. -/
  | call (nnn : Word)
  /-- `3xnn` SE Vx, nn. -/
  | seImm (x : Reg) (nn : Byte)
  /-- `4xnn` SNE Vx, nn. -/
  | sneImm (x : Reg) (nn : Byte)
  /-- `5xy0` SE Vx, Vy. -/
  | seReg (x y : Reg)
  /-- `6xnn` LD Vx, nn. -/
  | ldImm (x : Reg) (nn : Byte)
  /-- `7xnn` ADD Vx, nn. -/
  | addImm (x : Reg) (nn : Byte)
  /-- `8xy0` LD Vx, Vy. -/
  | ldReg (x y : Reg)
  /-- `8xy1` OR Vx, Vy. -/
  | orReg (x y : Reg)
  /-- `8xy2` AND Vx, Vy. -/
  | andReg (x y : Reg)
  /-- `8xy3` XOR Vx, Vy. -/
  | xorReg (x y : Reg)
  /-- `8xy4` ADD Vx, Vy. -/
  | addReg (x y : Reg)
  /-- `8xy5` SUB Vx, Vy. -/
  | subReg (x y : Reg)
  /-- `8xy6` SHR Vx, Vy. -/
  | shrReg (x y : Reg)
  /-- `8xy7` SUBN Vx, Vy. -/
  | subnReg (x y : Reg)
  /-- `8xyE` SHL Vx, Vy. -/
  | shlReg (x y : Reg)
  /-- `9xy0` SNE Vx, Vy. -/
  | sneReg (x y : Reg)
  /-- `Annn` LD I, nnn. -/
  | ldI (nnn : Word)
  /-- `Bnnn` JP V0, nnn. -/
  | jpV0 (nnn : Word)
  /-- `Cxnn` RND Vx, nn. -/
  | rnd (x : Reg) (nn : Byte)
  /-- `Dxyn` DRW Vx, Vy, n. -/
  | drw (x y : Reg) (n : Nat)
  /-- `Ex9E` SKP Vx. -/
  | skp (x : Reg)
  /-- `ExA1` SKNP Vx. -/
  | sknp (x : Reg)
  /-- `Fx07` LD Vx, DT. -/
  | ldFromDt (x : Reg)
  /-- `Fx0A` LD Vx, K. -/
  | ldKey (x : Reg)
  /-- `Fx15` LD DT, Vx. -/
  | ldToDt (x : Reg)
  /-- `Fx18` LD ST, Vx. -/
  | ldToSt (x : Reg)
  /-- `Fx1E` ADD I, Vx. -/
  | addI (x : Reg)
  /-- `Fx29` LD F, Vx. -/
  | ldFont (x : Reg)
  /-- `Fx33` LD B, Vx. -/
  | ldBcd (x : Reg)
  /-- `Fx55` LD [I], Vx. -/
  | storeRegs (x : Reg)
  /-- `Fx65` LD Vx, [I]. -/
  | loadRegs (x : Reg)
  deriving DecidableEq, Repr

end Sys2Proof
end

