-- ==== Sys2Proof/WellFormed.lean ====
section
/-! DEFINITION. The instructions an opcode can hold: `nnn` is a 12-bit address and `n` is a count 0 to 15
(30_encoding.md R72, R73). A register index and `nn` are in range by their types. -/

namespace Sys2Proof

/-- `nnn` fits its 12-bit field (R72). -/
abbrev Word.isAddr12 (nnn : Word) : Prop := nnn.toNat ≤ 0x0FFF

/-- `n` fits its 4-bit field (R72). -/
abbrev isCount4 (n : Nat) : Prop := n ≤ 15

/-- Every operand fits its field of the opcode (R72, R73). -/
def Instr.wf : Instr → Bool
  | .jp nnn => decide (Word.isAddr12 nnn)
  | .call nnn => decide (Word.isAddr12 nnn)
  | .ldI nnn => decide (Word.isAddr12 nnn)
  | .jpV0 nnn => decide (Word.isAddr12 nnn)
  | .drw _ _ n => decide (isCount4 n)
  | .cls => true
  | .ret => true
  | .seImm _ _ => true
  | .sneImm _ _ => true
  | .seReg _ _ => true
  | .ldImm _ _ => true
  | .addImm _ _ => true
  | .ldReg _ _ => true
  | .orReg _ _ => true
  | .andReg _ _ => true
  | .xorReg _ _ => true
  | .addReg _ _ => true
  | .subReg _ _ => true
  | .shrReg _ _ => true
  | .subnReg _ _ => true
  | .shlReg _ _ => true
  | .sneReg _ _ => true
  | .rnd _ _ => true
  | .skp _ => true
  | .sknp _ => true
  | .ldFromDt _ => true
  | .ldKey _ => true
  | .ldToDt _ => true
  | .ldToSt _ => true
  | .addI _ => true
  | .ldFont _ => true
  | .ldBcd _ => true
  | .storeRegs _ => true
  | .loadRegs _ => true

/-- An instruction some opcode stands for. -/
abbrev Instr.WellFormed (i : Instr) : Prop := i.wf = true

end Sys2Proof
end

