-- ==== Sys2Proof/Decode.lean ====
section
/-! DEFINITION. The decoder, total on every opcode and on any bytes (30_encoding.md R70 to R83), and the encoder written
from the same formats (R72). -/

namespace Sys2Proof

/-! ### The fields of an opcode (R72) -/

/-- `op[15:12]`, the family. -/
def opFamily (op : Word) : Nat := (op.extractLsb' 12 4).toNat

/-- `op[11:8]`, the index `x`. -/
def opX (op : Word) : Reg := (op.extractLsb' 8 4).toFin

/-- `op[7:4]`, the index `y`. -/
def opY (op : Word) : Reg := (op.extractLsb' 4 4).toFin

/-- `op[3:0]`, the count or sub-selector `n`. -/
def opN (op : Word) : Nat := (op.extractLsb' 0 4).toNat

/-- `op[7:0]`, the immediate byte or sub-selector `nn`. -/
def opNn (op : Word) : Byte := op.extractLsb' 0 8

/-- `zext_16(op[11:0])`, the address `nnn` (R73). -/
def opNnn (op : Word) : Word := (op.extractLsb' 0 12).setWidth 16

/-! ### Decoding (R74 to R79) -/

/-- Family 0 branches on the full opcode (R75). DEDUCED that `0nnn` is illegal (R81): log 35. -/
def decodeFamily0 (op : Word) : Option Instr :=
  if op = 0x00E0#16 then some .cls else if op = 0x00EE#16 then some .ret else none

/-- Family 8 branches on the low nibble (R76). -/
def decodeFamily8 (x y : Reg) : Nat → Option Instr
  | 0x0 => some (.ldReg x y)
  | 0x1 => some (.orReg x y)
  | 0x2 => some (.andReg x y)
  | 0x3 => some (.xorReg x y)
  | 0x4 => some (.addReg x y)
  | 0x5 => some (.subReg x y)
  | 0x6 => some (.shrReg x y)
  | 0x7 => some (.subnReg x y)
  | 0xE => some (.shlReg x y)
  | _ => none

/-- Family E branches on the low byte (R77). -/
def decodeFamilyE (x : Reg) : Nat → Option Instr
  | 0x9E => some (.skp x)
  | 0xA1 => some (.sknp x)
  | _ => none

/-- Family F branches on the low byte (R78). -/
def decodeFamilyF (x : Reg) : Nat → Option Instr
  | 0x07 => some (.ldFromDt x)
  | 0x0A => some (.ldKey x)
  | 0x15 => some (.ldToDt x)
  | 0x18 => some (.ldToSt x)
  | 0x1E => some (.addI x)
  | 0x29 => some (.ldFont x)
  | 0x33 => some (.ldBcd x)
  | 0x55 => some (.storeRegs x)
  | 0x65 => some (.loadRegs x)
  | _ => none

/-- The row of rule R70 that an opcode selects, by the high nibble first (R74); `none` for an illegal opcode (R80).
Families 5 and 9 require a low nibble 0 (R79). -/
def decodeWord (op : Word) : Option Instr :=
  match opFamily op with
  | 0x0 => decodeFamily0 op
  | 0x1 => some (.jp (opNnn op))
  | 0x2 => some (.call (opNnn op))
  | 0x3 => some (.seImm (opX op) (opNn op))
  | 0x4 => some (.sneImm (opX op) (opNn op))
  | 0x5 => if opN op = 0 then some (.seReg (opX op) (opY op)) else none
  | 0x6 => some (.ldImm (opX op) (opNn op))
  | 0x7 => some (.addImm (opX op) (opNn op))
  | 0x8 => decodeFamily8 (opX op) (opY op) (opN op)
  | 0x9 => if opN op = 0 then some (.sneReg (opX op) (opY op)) else none
  | 0xA => some (.ldI (opNnn op))
  | 0xB => some (.jpV0 (opNnn op))
  | 0xC => some (.rnd (opX op) (opNn op))
  | 0xD => some (.drw (opX op) (opY op) (opN op))
  | 0xE => decodeFamilyE (opX op) (opNn op).toNat
  | 0xF => decodeFamilyF (opX op) (opNn op).toNat
  | _ => none

/-- Why bytes hold no instruction. -/
inductive DecodeError where
  /-- The opcode matches no row of rule R70 (R80); it carries the raw 16-bit value. -/
  | invalidOpcode (op : Word)
  /-- Fewer than the two bytes of an instruction (R71, R83). -/
  | truncated
  deriving DecidableEq, Repr

/-- The byte at the lower address is `op[15:8]` (20_memory.md R53). -/
def opcodeOfBytes (hi lo : Byte) : Word := hi ++ lo

/-- The two bytes of an opcode as memory holds them, the high half at the lower address (20_memory.md R53). -/
def bytesOfOpcode (op : Word) : List Byte := [op.extractLsb' 8 8, op.extractLsb' 0 8]

/-- Decode the instruction at the head of some bytes; the rest of the bytes is returned with it. Every instruction is
two bytes long (R71, R83). -/
def decode : List Byte → Except DecodeError (Instr × List Byte)
  | hi :: lo :: rest =>
    match decodeWord (opcodeOfBytes hi lo) with
    | some i => .ok (i, rest)
    | none => .error (.invalidOpcode (opcodeOfBytes hi lo))
  | _ => .error .truncated

/-- The instruction the decoder reads from the word `w` of `nbits` bits, numbered as spec/opcode_table.json numbers them:
the word's bytes are laid out as memory holds them and given to the decoder. -/
def decodeTableWord (nbits w : Nat) : Option Instr :=
  match decode (bytesOfOpcode (BitVec.ofNat 16 (w % 2 ^ nbits))) with
  | .ok (i, _) => some i
  | .error _ => none

/-! ### Encoding (R72) -/

/-- The 4-bit field that names a register. -/
def regBits (x : Reg) : BitVec 4 := BitVec.ofFin x

/-- Format `A`: `FFFF nnnn nnnn nnnn`. -/
def encodeA (family : BitVec 4) (nnn : Word) : Word := family ++ nnn.extractLsb' 0 12

/-- Format `XI`: `FFFF xxxx nnnn nnnn`. -/
def encodeXI (family : BitVec 4) (x : Reg) (nn : Byte) : Word := family ++ regBits x ++ nn

/-- Formats `XY` and `XYN`: `FFFF xxxx yyyy ssss`. -/
def encodeXY (family : BitVec 4) (x y : Reg) (n : BitVec 4) : Word :=
  family ++ regBits x ++ regBits y ++ n

/-- The opcode of a well-formed instruction (R70, R72). Format `X` is format `XI` with a fixed selector byte. -/
def encode : Instr → Word
  | .cls => 0x00E0#16
  | .ret => 0x00EE#16
  | .jp nnn => encodeA 0x1#4 nnn
  | .call nnn => encodeA 0x2#4 nnn
  | .seImm x nn => encodeXI 0x3#4 x nn
  | .sneImm x nn => encodeXI 0x4#4 x nn
  | .seReg x y => encodeXY 0x5#4 x y 0x0#4
  | .ldImm x nn => encodeXI 0x6#4 x nn
  | .addImm x nn => encodeXI 0x7#4 x nn
  | .ldReg x y => encodeXY 0x8#4 x y 0x0#4
  | .orReg x y => encodeXY 0x8#4 x y 0x1#4
  | .andReg x y => encodeXY 0x8#4 x y 0x2#4
  | .xorReg x y => encodeXY 0x8#4 x y 0x3#4
  | .addReg x y => encodeXY 0x8#4 x y 0x4#4
  | .subReg x y => encodeXY 0x8#4 x y 0x5#4
  | .shrReg x y => encodeXY 0x8#4 x y 0x6#4
  | .subnReg x y => encodeXY 0x8#4 x y 0x7#4
  | .shlReg x y => encodeXY 0x8#4 x y 0xE#4
  | .sneReg x y => encodeXY 0x9#4 x y 0x0#4
  | .ldI nnn => encodeA 0xA#4 nnn
  | .jpV0 nnn => encodeA 0xB#4 nnn
  | .rnd x nn => encodeXI 0xC#4 x nn
  | .drw x y n => encodeXY 0xD#4 x y (BitVec.ofNat 4 n)
  | .skp x => encodeXI 0xE#4 x 0x9E#8
  | .sknp x => encodeXI 0xE#4 x 0xA1#8
  | .ldFromDt x => encodeXI 0xF#4 x 0x07#8
  | .ldKey x => encodeXI 0xF#4 x 0x0A#8
  | .ldToDt x => encodeXI 0xF#4 x 0x15#8
  | .ldToSt x => encodeXI 0xF#4 x 0x18#8
  | .addI x => encodeXI 0xF#4 x 0x1E#8
  | .ldFont x => encodeXI 0xF#4 x 0x29#8
  | .ldBcd x => encodeXI 0xF#4 x 0x33#8
  | .storeRegs x => encodeXI 0xF#4 x 0x55#8
  | .loadRegs x => encodeXI 0xF#4 x 0x65#8

/-! ### The opcode map of rule R70, as data -/

/-- A row of rule R70: the match and mask over the opcode, and the instruction it stands for, given the fields `x`, `y`,
`n`, `nn`, `nnn`. -/
structure OpcodeRow where
  matchBits : Word
  maskBits : Word
  build : Reg → Reg → Nat → Byte → Word → Instr

/-- An opcode selects a row when `op & mask = match` (R70). -/
abbrev OpcodeRow.Selects (r : OpcodeRow) (op : Word) : Prop := op &&& r.maskBits = r.matchBits

/-- Rows 1 to 9: families 0 to 7. -/
def opcodeRowsLow : List OpcodeRow := [
  ⟨0x00E0, 0xFFFF, fun _ _ _ _ _ => .cls⟩,
  ⟨0x00EE, 0xFFFF, fun _ _ _ _ _ => .ret⟩,
  ⟨0x1000, 0xF000, fun _ _ _ _ nnn => .jp nnn⟩,
  ⟨0x2000, 0xF000, fun _ _ _ _ nnn => .call nnn⟩,
  ⟨0x3000, 0xF000, fun x _ _ nn _ => .seImm x nn⟩,
  ⟨0x4000, 0xF000, fun x _ _ nn _ => .sneImm x nn⟩,
  ⟨0x5000, 0xF00F, fun x y _ _ _ => .seReg x y⟩,
  ⟨0x6000, 0xF000, fun x _ _ nn _ => .ldImm x nn⟩,
  ⟨0x7000, 0xF000, fun x _ _ nn _ => .addImm x nn⟩]

/-- Rows 10 to 18: family 8. -/
def opcodeRowsAlu : List OpcodeRow := [
  ⟨0x8000, 0xF00F, fun x y _ _ _ => .ldReg x y⟩,
  ⟨0x8001, 0xF00F, fun x y _ _ _ => .orReg x y⟩,
  ⟨0x8002, 0xF00F, fun x y _ _ _ => .andReg x y⟩,
  ⟨0x8003, 0xF00F, fun x y _ _ _ => .xorReg x y⟩,
  ⟨0x8004, 0xF00F, fun x y _ _ _ => .addReg x y⟩,
  ⟨0x8005, 0xF00F, fun x y _ _ _ => .subReg x y⟩,
  ⟨0x8006, 0xF00F, fun x y _ _ _ => .shrReg x y⟩,
  ⟨0x8007, 0xF00F, fun x y _ _ _ => .subnReg x y⟩,
  ⟨0x800E, 0xF00F, fun x y _ _ _ => .shlReg x y⟩]

/-- Rows 19 to 25: families 9 to E. -/
def opcodeRowsMid : List OpcodeRow := [
  ⟨0x9000, 0xF00F, fun x y _ _ _ => .sneReg x y⟩,
  ⟨0xA000, 0xF000, fun _ _ _ _ nnn => .ldI nnn⟩,
  ⟨0xB000, 0xF000, fun _ _ _ _ nnn => .jpV0 nnn⟩,
  ⟨0xC000, 0xF000, fun x _ _ nn _ => .rnd x nn⟩,
  ⟨0xD000, 0xF000, fun x y n _ _ => .drw x y n⟩,
  ⟨0xE09E, 0xF0FF, fun x _ _ _ _ => .skp x⟩,
  ⟨0xE0A1, 0xF0FF, fun x _ _ _ _ => .sknp x⟩]

/-- Rows 26 to 34: family F. -/
def opcodeRowsF : List OpcodeRow := [
  ⟨0xF007, 0xF0FF, fun x _ _ _ _ => .ldFromDt x⟩,
  ⟨0xF00A, 0xF0FF, fun x _ _ _ _ => .ldKey x⟩,
  ⟨0xF015, 0xF0FF, fun x _ _ _ _ => .ldToDt x⟩,
  ⟨0xF018, 0xF0FF, fun x _ _ _ _ => .ldToSt x⟩,
  ⟨0xF01E, 0xF0FF, fun x _ _ _ _ => .addI x⟩,
  ⟨0xF029, 0xF0FF, fun x _ _ _ _ => .ldFont x⟩,
  ⟨0xF033, 0xF0FF, fun x _ _ _ _ => .ldBcd x⟩,
  ⟨0xF055, 0xF0FF, fun x _ _ _ _ => .storeRegs x⟩,
  ⟨0xF065, 0xF0FF, fun x _ _ _ _ => .loadRegs x⟩]

/-- The 34 rows of rule R70. -/
def opcodeRows : List OpcodeRow := opcodeRowsLow ++ opcodeRowsAlu ++ opcodeRowsMid ++ opcodeRowsF

end Sys2Proof
end

