-- ==== Sys2Proof/Config.lean ====
section
/-! DEFINITION. What construction fixes for a whole run (00_scope.md R9, R10) and the one free value, the random byte
(42_alu.md R141). The sizes the source fixes are constants here; the parameters are a structure that State holds, so
that a claim about every state holds for every value of them (log 1). -/

namespace Sys2Proof

/-- Which register `8xy6` and `8xyE` shift (R9 `SHIFT_SOURCE`; decision D5). -/
inductive ShiftSource where
  | x
  | y
  deriving DecidableEq, Repr

/-- Which program counters the fetch check refuses (R9 `FETCH_CHECK`; 40_execution_cycle.md R91; decision D13). -/
inductive FetchCheck where
  | strict
  | permissive
  deriving DecidableEq, Repr

/-- The implementation parameters of rule R9 that are not one number in every build. -/
structure Params where
  /-- `IPF`, the completed Engine steps before one frame (R9, 40_execution_cycle.md R99). -/
  ipf : Nat
  /-- `CLOCK_PERIOD` in nanoseconds: timing only, no rule reads it (R9, 70_reset_and_hazards.md R273; log 15). -/
  clockPeriodNs : Nat
  /-- `FRAME_CAP`, the most frames the queue keeps (R9, 44_display_frame.md R188); its least value 1 is the model's choice
  (log 14). -/
  frameCap : Nat
  /-- `FONT`, 16 glyphs of 5 bytes (R9, 10_state.md R41; log 3). -/
  font : Vector Byte 80
  /-- `STACK_DEPTH`; `none` is unbounded (R9, 10_state.md R26; log 13). -/
  stackDepth : Option Nat
  /-- `SHIFT_SOURCE` (log 10). -/
  shiftSource : ShiftSource
  /-- `FETCH_CHECK` (log 11). -/
  fetchCheck : FetchCheck
  /-- `TIMER_TICK_ATOMIC` (log 12). -/
  tickAtomic : Bool
  /-- `LIT_COLOUR` (log 9). -/
  litColour : Colour
  /-- `UNLIT_COLOUR` (log 9). -/
  unlitColour : Colour
  deriving DecidableEq, Repr

/-- What the spec asks of the parameters: `IPF` is at least 1 (R9) and the two colours differ (R9, 44_display_frame.md
R185). That `FRAME_CAP` is at least 1 is the model's choice, DEDUCED from 44_display_frame.md R190: the spec gives 3 and no
minimum, but with 0 a consume would return no frame at all (log 14). -/
abbrev Params.Valid (p : Params) : Prop := 1 ≤ p.ipf ∧ 1 ≤ p.frameCap ∧ p.litColour ≠ p.unlitColour

namespace Config

/-- `MEM_SIZE` (R9). -/
abbrev memSize : Nat := 4096

/-- `PROGRAM_ORIGIN` (R9). -/
abbrev programOrigin : Nat := 0x200

/-- `FONT_BASE` (R9). -/
abbrev fontBase : Nat := 0x050

/-- `FONT_GLYPHS * GLYPH_BYTES` (R9). -/
abbrev fontBytes : Nat := 80

/-- `DISPLAY_W` (R9). -/
abbrev displayW : Nat := 64

/-- `DISPLAY_H` (R9). -/
abbrev displayH : Nat := 32

/-- The random byte of the `k`-th draw of a run: any byte, under no law (42_alu.md R141, decision D34; log 5). It has no
body, so no proof can see a value of it. -/
opaque drawByte : Nat → Byte

end Config
end Sys2Proof
end

