-- ==== Sys2Proof/Machine/Defaults.lean ====
section
/-! DEFINITION. The decided defaults of the parameters (00_scope.md R9, 92_eei_decisions.md, Open parameters) and what
memory holds after construction (10_state.md R40, R41). -/

namespace Sys2Proof.Machine

/-- The default `FONT`, one glyph a line (R41). PRESUMED: the spec marks these bytes as general knowledge; log 3. -/
def defaultFont : Vector Byte 80 := #v[
  0xF0, 0x90, 0x90, 0x90, 0xF0,
  0x20, 0x60, 0x20, 0x20, 0x70,
  0xF0, 0x10, 0xF0, 0x80, 0xF0,
  0xF0, 0x10, 0xF0, 0x10, 0xF0,
  0x90, 0x90, 0xF0, 0x10, 0x10,
  0xF0, 0x80, 0xF0, 0x10, 0xF0,
  0xF0, 0x80, 0xF0, 0x90, 0xF0,
  0xF0, 0x10, 0x20, 0x40, 0x40,
  0xF0, 0x90, 0xF0, 0x90, 0xF0,
  0xF0, 0x90, 0xF0, 0x10, 0xF0,
  0xF0, 0x90, 0xF0, 0x90, 0x90,
  0xE0, 0x90, 0xE0, 0x90, 0xE0,
  0xF0, 0x80, 0x80, 0x80, 0xF0,
  0xE0, 0x90, 0x90, 0x90, 0xE0,
  0xF0, 0x80, 0xF0, 0x80, 0xF0,
  0xF0, 0x80, 0xF0, 0x80, 0x80]

/-- The parameters at their decided defaults (R9). DESIGN CHOICE for the two colours, which the spec leaves open with no
default: log 9. -/
def defaultParams : Params where
  ipf := 700
  clockPeriodNs := 1430000
  frameCap := 3
  font := defaultFont
  stackDepth := none
  shiftSource := .x
  fetchCheck := .strict
  tickAtomic := false
  litColour := 1
  unlitColour := 0

/-- What an address holds after construction, and so what an unlisted address of the memory reads as: the font from
`FONT_BASE`, 0x00 everywhere else (R40, R41; DESIGN CHOICE of the spec for the zeros, decision D2; log 2, log 4). -/
def constructionByte (p : Params) (a : Nat) : Byte :=
  if Config.fontBase ≤ a then (p.font[a - Config.fontBase]?).getD 0 else 0

end Sys2Proof.Machine
end

