-- ==== Sys2Proof/Machine/State.lean ====
section
/-! DEFINITION. The machine's state as plain data, the reasons a step can stop, and the state after construction
(10_state.md R20 to R41). INVENTORY.md lists every field with its rule and its reset value. -/

namespace Sys2Proof.Machine

/-- The run state `RS` (10_state.md R35). -/
inductive RunState where
  | idle
  | running
  | stopped
  deriving DecidableEq, Repr

/-- The faults of 60_exceptions.md R230 (the code 0, `none`, is the empty latch). -/
inductive FaultCode where
  | invalidOpcode
  | stackUnderflow
  | stackOverflow
  | addressOutOfRange
  | pcOutOfRange
  deriving DecidableEq, Repr

/-- One latched fault: its code and its 16-bit information word (10_state.md R36, 60_exceptions.md R230). -/
structure Latched where
  code : FaultCode
  info : Word
  deriving DecidableEq, Repr

/-- The TimerPair's tick in flight, `TL` (10_state.md R38). -/
inductive TickLatch where
  | idle
  | latched (dt0 st0 : Byte)
  deriving DecidableEq, Repr

/-- The display, a fixed grid of 64 by 32 cells: cell `(px, py)` is entry `py * 64 + px` (10_state.md R30). The list
carries its length, so that a display of another size cannot be built. -/
structure Display where
  cells : List Bool
  size : cells.length = 2048
  deriving DecidableEq, Repr

/-- A display with every cell unlit. -/
def Display.blank : Display := ⟨List.replicate 2048 false, List.length_replicate⟩

/-- A frame's pixel buffer of 2048 pixels, row-major: pixel `(px, py)` is entry `py * 64 + px` (44_display_frame.md
R185). -/
structure Frame where
  pixels : List Colour
  size : pixels.length = 2048
  deriving DecidableEq, Repr

/-- What the file system gave `LoadFile`: the ROM's bytes, or an I/O error (60_exceptions.md R249; log 30). -/
inductive FileRead where
  | bytes (rom : List Byte)
  | ioError (code : Nat)
  deriving DecidableEq, Repr

/-- The operations of the Host (60_exceptions.md R248). -/
inductive HostOp where
  | loadBuffer (rom : List Byte)
  | loadFile (file : FileRead)
  | run
  | stop
  | consumeFrame
  | press (key : Nat)
  | release (key : Nat)
  | pressed (key : Nat)
  | readFault
  deriving DecidableEq, Repr

/-- What a Host operation returns (60_exceptions.md R246, R248, R249). -/
inductive HostReply where
  /-- The operation did what it is for and returns nothing. -/
  | done
  /-- `NotRunning` from Stop (R246). -/
  | notRunning
  /-- `RomTooLarge` from a load (70_reset_and_hazards.md R265). -/
  | romTooLarge
  /-- An I/O error of `LoadFile`, passed on unchanged (R249). -/
  | ioError (code : Nat)
  /-- A frame or `none` from ConsumeFrame (44_display_frame.md R189). -/
  | frame (f : Option Frame)
  /-- The Boolean of Pressed (45_keypad.md R205). -/
  | pressed (down : Bool)
  /-- The fault latch. -/
  | fault (f : Option Latched)
  deriving DecidableEq, Repr

/-- One step of one agent (00_scope.md R5). -/
inductive Move where
  /-- One Engine step (40_execution_cycle.md R90). -/
  | engine
  /-- `TickRead` (46_timers.md R219). -/
  | tickRead
  /-- `TickWrite` (46_timers.md R219). -/
  | tickWrite
  /-- `TimerTick`, with `TIMER_TICK_ATOMIC = true` (46_timers.md R218). -/
  | timerTick
  /-- One Host operation (60_exceptions.md R248). -/
  | host (op : HostOp)
  deriving DecidableEq, Repr

/-- Why the machine has no next state though a step was asked of it. The faults of the spec are not here: taking one is
a next state, with the fault latched (60_exceptions.md R236; log 7). -/
inductive Fault where
  /-- Raised by the Engine's move when `RS` is not running or a fault is latched: the Engine then has no step
  (40_execution_cycle.md R90). Safe: the model takes no step where the spec gives none. -/
  | engineNotEnabled
  deriving DecidableEq, Repr

/-- Why a scheduled move has no transition. -/
inductive Refusal where
  /-- Raised by exec's arm of an instruction that has no meaning yet. Safe. No arm raises it. -/
  | notModelled (mnemonic : String)
  /-- Raised by a Host load while `RS` is running, which the spec does not enable (70_reset_and_hazards.md R264). Safe for
  runs that do not load while running, the spec's own assumption (60_exceptions.md R250; log 8). -/
  | loadWhileRunning
  /-- Raised by `TickRead` when `RS` is not running, a tick is in flight or ticks are atomic (46_timers.md R219). Safe. -/
  | tickReadNotEnabled
  /-- Raised by `TickWrite` when no tick is in flight (46_timers.md R219). Safe. -/
  | tickWriteNotEnabled
  /-- Raised by `TimerTick` when `RS` is not running or ticks are not atomic (46_timers.md R218). Safe. -/
  | timerTickNotEnabled
  deriving DecidableEq, Repr

/-- The whole machine: 10_state.md, with the constructor parameters and, as the model's own, the schedule, the last
Host reply and whether a Stop waits to return. -/
structure State where
  /-- The constructor parameters (00_scope.md R9, R10). -/
  params : Params
  /-- `V0` to `VF` (R20). -/
  v : Vector Byte 16
  /-- The index register `I` (R23). -/
  i : Word
  /-- The program counter (R24). -/
  pc : Word
  /-- The call stack, the most recent return address first (R26; log 34). -/
  stack : List Word
  /-- The delay timer `DT` (R28). -/
  dt : Byte
  /-- The sound timer `ST` (R28). -/
  st : Byte
  /-- The keypad mask `K`; bit `k` is 1 while key `k` is down (R29). -/
  keys : BitVec 16
  /-- The display (R30). -/
  display : Display
  /-- The 4096 bytes of memory (R31), as the sorted list of the cells that differ from their construction value. -/
  mem : List Host.Cell
  /-- The random source (R32), as the number of bytes drawn so far; the MODEL's own form (log 5). -/
  rng : Nat
  /-- The frame queue `FQ`, the oldest frame first (R33). -/
  frames : List Frame
  /-- The batch counter `bc` (R34). -/
  bc : Nat
  /-- The run state `RS` (R35). -/
  runState : RunState
  /-- The fault latch `FAULT` (R36). -/
  faultLatch : Option Latched
  /-- The timer tick latch `TL` (R38). -/
  tickLatch : TickLatch
  /-- The moves that come before the Engine's own next step, the next one first: how the agents interleave
  (60_exceptions.md R243). The MODEL's own field: an input (log 6). -/
  schedule : List Move
  /-- What the last Host operation returned. The MODEL's own field: an output nothing reads (log 29). -/
  reply : Option HostReply
  /-- A Stop has taken effect and waits for the tick in flight to complete before it returns (60_exceptions.md R245). The
  MODEL's own field: it decides nothing but when Stop's answer stands in `reply` (log 41). -/
  stopPending : Bool
  deriving DecidableEq, Repr

/-- The state after construction with given parameters (10_state.md R40; DESIGN CHOICE of the spec for the values its
source does not give, decision D2: log 2). -/
def State.construct (p : Params) : State where
  params := p
  v := Vector.replicate 16 0
  i := 0
  pc := 0x0200
  stack := []
  dt := 0
  st := 0
  keys := 0
  display := Display.blank
  mem := []
  rng := 0
  frames := []
  bc := 0
  runState := .idle
  faultLatch := none
  tickLatch := .idle
  schedule := []
  reply := none
  stopPending := false

/-- The machine right after reset. Construction is the only reset (10_state.md R40, 70_reset_and_hazards.md R260). -/
def State.reset : State := State.construct defaultParams

end Sys2Proof.Machine
end

