-- ==== Sys2Proof/Machine/Ops.lean ====
section
/-! DEFINITION. The named operations every meaning is written over: one setter per field of State, the registers, the
memory, the call stack, the display cells, the advance of the program counter, and taking a fault
(10_state.md, 20_memory.md, 40_execution_cycle.md R95 to R98, 60_exceptions.md R236). -/

namespace Sys2Proof.Machine

/-! ### Memory: the sorted list of the cells that differ from `base`, what an unlisted address reads as -/

namespace Memory

/-- The byte at an address (20_memory.md R59). -/
def read (base : Nat → Byte) : List Host.Cell → Nat → Byte
  | [], a => base a
  | (k, v) :: m, a => if k = a then v else read base m a

/-- A list without its cell at an address. -/
def drop (m : List Host.Cell) (a : Nat) : List Host.Cell := m.filter fun c => decide (c.1 ≠ a)

/-- A cell put before the first cell of a higher address. -/
def insert : List Host.Cell → Nat → Byte → List Host.Cell
  | [], a, b => [(a, b)]
  | c :: m, a, b => if a < c.1 then (a, b) :: c :: m else c :: insert m a b

/-- The list with `b` at `a`: no cell when `b` is the construction value, else one cell in its sorted place. -/
def put (base : Nat → Byte) (m : List Host.Cell) (a : Nat) (b : Byte) : List Host.Cell :=
  if b = base a then drop m a else insert (drop m a) a b

/-- Write one byte. There is no cell at or above `MEM_SIZE` (R50); the meanings check the range first (R56). -/
def write (base : Nat → Byte) (m : List Host.Cell) (a : Nat) (b : Byte) : List Host.Cell :=
  if a < Config.memSize then put base m a b else m

/-- Write bytes at consecutive addresses, in ascending order (R55). -/
def writeList (base : Nat → Byte) : List Host.Cell → Nat → List Byte → List Host.Cell
  | m, _, [] => m
  | m, a, b :: bs => writeList base (write base m a b) (a + 1) bs

/-- The canonical form from a lowest address on: addresses rise, none is past the end of memory, no cell holds its
construction value. -/
def wfFrom (base : Nat → Byte) : Nat → List Host.Cell → Bool
  | _, [] => true
  | lo, (k, v) :: m => decide (lo ≤ k) && decide (k < Config.memSize) && decide (v ≠ base k) && wfFrom base (k + 1) m

/-- The canonical form: equal memories are equal lists. -/
def wf (base : Nat → Byte) (m : List Host.Cell) : Bool := wfFrom base 0 m

end Memory

/-! ### The cells of a display (10_state.md R30) -/

/-- `D(px, py)`. A cell off the display reads as unlit and is never asked for (44_display_frame.md R181). -/
def Display.lit (d : Display) (px py : Nat) : Bool :=
  if px < Config.displayW ∧ py < Config.displayH then d.cells.getD (py * 64 + px) false else false

/-- `D(px, py) <- b`, for a cell on the display. -/
def Display.put (d : Display) (px py : Nat) (b : Bool) : Display :=
  ⟨d.cells.set (py * 64 + px) b, (List.length_set ..).trans d.size⟩

namespace State

/-! ### Setters, one per field -/

def setV (s : State) (x : Vector Byte 16) : State := { s with v := x }
def setI (s : State) (x : Word) : State := { s with i := x }
def setPc (s : State) (x : Word) : State := { s with pc := x }
def setStack (s : State) (x : List Word) : State := { s with stack := x }
def setDt (s : State) (x : Byte) : State := { s with dt := x }
def setSt (s : State) (x : Byte) : State := { s with st := x }
def setKeys (s : State) (x : BitVec 16) : State := { s with keys := x }
def setDisplay (s : State) (x : Display) : State := { s with display := x }
def setMem (s : State) (x : List Host.Cell) : State := { s with mem := x }
def setRng (s : State) (x : Nat) : State := { s with rng := x }
def setFrames (s : State) (x : List Frame) : State := { s with frames := x }
def setBc (s : State) (x : Nat) : State := { s with bc := x }
def setRunState (s : State) (x : RunState) : State := { s with runState := x }
def setFaultLatch (s : State) (x : Option Latched) : State := { s with faultLatch := x }
def setTickLatch (s : State) (x : TickLatch) : State := { s with tickLatch := x }
def setSchedule (s : State) (x : List Move) : State := { s with schedule := x }
def setReply (s : State) (x : Option HostReply) : State := { s with reply := x }
def setStopPending (s : State) (x : Bool) : State := { s with stopPending := x }

/-! ### General registers (10_state.md R20) -/

/-- `V[x]`. -/
def reg (s : State) (x : Reg) : Byte := s.v[x]

/-- `V[x] <- b`. -/
def setReg (s : State) (x : Reg) (b : Byte) : State := s.setV (s.v.set x b)

/-! ### The program counter (40_execution_cycle.md R95, R97) -/

/-- The default advance, `pc <- pc + 2` in 16 bits (R95). -/
def advance (s : State) : State := s.setPc (s.pc + 2)

/-- A skip: `pc <- pc + 4` when the condition holds, else `pc <- pc + 2` (R97). -/
def skipIf (s : State) (c : Bool) : State := s.setPc (if c then s.pc + 4 else s.pc + 2)

/-! ### Memory (20_memory.md R50 to R60) -/

/-- What each address holds after construction. -/
def memBase (s : State) : Nat → Byte := constructionByte s.params

/-- `MemRead(a, 1)`. -/
def readByte (s : State) (a : Nat) : Byte := Memory.read s.memBase s.mem a

/-- `MemWrite(a, 1, b)`. -/
def writeByte (s : State) (a : Nat) (b : Byte) : State := s.setMem (Memory.write s.memBase s.mem a b)

/-- The `count` bytes from `a`, in ascending order (R55). -/
def readBytes (s : State) (a count : Nat) : List Byte := (List.range count).map fun k => s.readByte (a + k)

/-- Store bytes from `a` on, in ascending order (R55). -/
def writeBytes (s : State) (a : Nat) (bs : List Byte) : State := s.setMem (Memory.writeList s.memBase s.mem a bs)

/-- `Fetch(pc)`: the two bytes at `pc` and `pc + 1`, big-endian (R53; DEDUCED by the spec from a scenario, log 32). -/
def fetch (s : State) : Word := opcodeOfBytes (s.readByte s.pc.toNat) (s.readByte (s.pc.toNat + 1))

/-! ### The call stack (10_state.md R26) -/

/-- The stack holds as many entries as a finite `STACK_DEPTH` allows (R26; 41_control_flow.md R112). -/
def stackFull (s : State) : Bool := decide (s.params.stackDepth = some s.stack.length)

/-- `push(a)`. -/
def push (s : State) (a : Word) : State := s.setStack (a :: s.stack)

/-! ### The display (10_state.md R30) -/

/-- `D(px, py)` of this machine's display. -/
def cell (s : State) (px py : Nat) : Bool := s.display.lit px py

/-! ### Taking a fault, and leaving it (60_exceptions.md R236, R244) -/

/-- `raise code(info)`: `FAULT` latches the code and the information, `RS` becomes stopped, nothing else changes; `pc`
keeps the address of the faulting instruction (R236; 40_execution_cycle.md R98). Decision D21: log 24. -/
def raise (s : State) (code : FaultCode) (info : Word) : State :=
  (s.setFaultLatch (some ⟨code, info⟩)).setRunState .stopped

/-- Keep what a Host operation returns (log 29). -/
def answer (s : State) (r : HostReply) : State := s.setReply (some r)

/-- A Stop that waited for the tick in flight returns; without one nothing changes (60_exceptions.md R245; log 41). -/
def stopReturns (s : State) : State := if s.stopPending then (s.setStopPending false).answer .done else s

/-- `Run`, the one way out of a fault: from idle or stopped it clears the latch and the batch counter and resumes at the
unchanged `pc`; while running it changes nothing (R244, R239). -/
def resume (s : State) : State :=
  if s.runState = .running then s else ((s.setRunState .running).setFaultLatch none).setBc 0

end State

/-- The number the spec gives a fault (60_exceptions.md R230; the codes are the spec's own, decision D20: log 40). -/
def FaultCode.number : FaultCode → Nat
  | .invalidOpcode => 1
  | .stackUnderflow => 2
  | .stackOverflow => 3
  | .addressOutOfRange => 4
  | .pcOutOfRange => 5

end Sys2Proof.Machine
end

