-- ==== Sys2Proof/Machine/Operands.lean ====
section
/-! DEFINITION. The operand forms: index-relative ranges of memory and their check, the shifted register, key codes,
decimal digits, font glyphs and the jump with offset (30_encoding.md R73, 20_memory.md R56, 42_alu.md R138,
43_index_memory.md R162, R163, R166, 45_keypad.md R200 to R202). -/

namespace Sys2Proof.Machine

/-- The whole range of `count` bytes from `base` is checked before anything is written: the first address above 0xFFF
that it reaches, if it reaches one (20_memory.md R56, 43_index_memory.md R166; decision D12: log 21). -/
def firstBadAddress (base : Word) (count : Nat) : Option Word :=
  if 0 < count ∧ Config.memSize < base.toNat + count then some (BitVec.ofNat 16 (max base.toNat 0x1000)) else none

namespace State

/-- The operand of `8xy6` and `8xyE`: `Vx`, or `Vy` when `SHIFT_SOURCE = y` (42_alu.md R138; decision D5: log 10). -/
def shiftOperand (s : State) (x y : Reg) : Byte :=
  match s.params.shiftSource with
  | .x => s.reg x
  | .y => s.reg y

/-- `zext_16(nnn) + zext_16(V0)` (41_control_flow.md R117). -/
def jumpOffsetTarget (s : State) (nnn : Word) : Word := nnn + (s.reg 0).setWidth 16

/-- The address of the glyph that `Vx` names: `FONT_BASE + 5 * Vx`, unmasked (43_index_memory.md R162). -/
def glyphAddress (s : State) (x : Reg) : Word := BitVec.ofNat 16 (Config.fontBase + 5 * (s.reg x).toNat)

/-- `V0` to `Vx`, in order (43_index_memory.md R164). -/
def regsUpTo (s : State) (x : Reg) : List Byte := s.v.toList.take (x.val + 1)

/-- The registers after `V0` to `Vx` are loaded from `base` on (43_index_memory.md R165). -/
def regsLoadedFrom (s : State) (base : Nat) (x : Reg) : Vector Byte 16 :=
  Vector.ofFn fun r => if r ≤ x then s.readByte (base + r.val) else s.reg r

end State

/-- The three decimal digits of a byte, hundreds first (43_index_memory.md R163; decision D10: log 19). -/
def bcdDigits (b : Byte) : List Byte :=
  [BitVec.ofNat 8 (b.toNat / 100), BitVec.ofNat 8 (b.toNat / 10 % 10), BitVec.ofNat 8 (b.toNat % 10)]

/-- `pressed(k)`: `k <= 15 and K[k] = 1` (45_keypad.md R200, R205; decisions D17, D19: log 23). -/
def keyDown (keys : BitVec 16) (k : Nat) : Bool := decide (k ≤ 15) && keys.getLsbD k

/-- The least key that is down, if any is (45_keypad.md R202; decision D18: log 23). -/
def lowestKey (keys : BitVec 16) : Option Nat := (List.range 16).find? (keyDown keys)

end Sys2Proof.Machine
end

