-- ==== Sys2Proof/Machine/Flags.lean ====
section
/-! DEFINITION. Every value the flag `VF` can be given, and the order of result and flag (10_state.md R22,
40_execution_cycle.md R101, 42_alu.md R136 to R140). -/

namespace Sys2Proof.Machine

/-- A flag as the byte `VF` holds: 1 or 0 (10_state.md R22). -/
def flagByte (f : Bool) : Byte := if f then 1 else 0

/-- Unsigned overflow of `a + b` (42_alu.md R136). -/
def carryOf (a b : Byte) : Bool := decide (255 < a.toNat + b.toNat)

/-- `a >= b`: no borrow in `a - b` (42_alu.md R137, R139). -/
def notBorrowOf (a b : Byte) : Bool := decide (b.toNat ≤ a.toNat)

/-- Bit 0 of the operand, which a shift right drops (42_alu.md R138). -/
def lowBitOf (a : Byte) : Bool := a.getLsbD 0

/-- Bit 7 of the operand, which a shift left drops (42_alu.md R140). -/
def highBitOf (a : Byte) : Bool := a.getLsbD 7

namespace State

/-- `V[0xF] <- f`. -/
def setVF (s : State) (f : Bool) : State := s.setReg vF (flagByte f)

/-- The result to `Vx` first, the flag to `VF` second, so that with `x = 15` the flag stays (40_execution_cycle.md R101;
decision D7: log 17). -/
def setResultAndFlag (s : State) (x : Reg) (r : Byte) (f : Bool) : State := (s.setReg x r).setVF f

end State
end Sys2Proof.Machine
end

