-- ==== Sys2Proof/Machine/Alu.lean ====
section
/-! DEFINITION. Register loads, arithmetic and logic, and the random byte: `6xnn` `7xnn` `8xy0` to `8xyE` `Cxnn`
(42_alu.md R130 to R142). None of them can fault; each ends with the default advance. -/

namespace Sys2Proof.Machine

/-- `6xnn` LD Vx, nn (R130). -/
def execLdImm (x : Reg) (nn : Byte) (s : State) : Host.Outcome State Fault Refusal := .next (s.setReg x nn).advance

/-- `7xnn` ADD Vx, nn (R131): wraps modulo 256, no flag. -/
def execAddImm (x : Reg) (nn : Byte) (s : State) : Host.Outcome State Fault Refusal :=
  .next (s.setReg x (s.reg x + nn)).advance

/-- `8xy0` LD Vx, Vy (R132). -/
def execLdReg (x y : Reg) (s : State) : Host.Outcome State Fault Refusal := .next (s.setReg x (s.reg y)).advance

/-- `8xy1` OR Vx, Vy (R133); no flag (decision D8: log 17). -/
def execOrReg (x y : Reg) (s : State) : Host.Outcome State Fault Refusal :=
  .next (s.setReg x (s.reg x ||| s.reg y)).advance

/-- `8xy2` AND Vx, Vy (R134); no flag (decision D8: log 17). -/
def execAndReg (x y : Reg) (s : State) : Host.Outcome State Fault Refusal :=
  .next (s.setReg x (s.reg x &&& s.reg y)).advance

/-- `8xy3` XOR Vx, Vy (R135); no flag (decision D8: log 17). -/
def execXorReg (x y : Reg) (s : State) : Host.Outcome State Fault Refusal :=
  .next (s.setReg x (s.reg x ^^^ s.reg y)).advance

/-- `8xy4` ADD Vx, Vy (R136): the carry goes to `VF`. -/
def execAddReg (x y : Reg) (s : State) : Host.Outcome State Fault Refusal :=
  .next (s.setResultAndFlag x (s.reg x + s.reg y) (carryOf (s.reg x) (s.reg y))).advance

/-- The result of `8xy5`: floored at 0, never wrapping (R137). -/
def flooredSub (a b : Byte) : Byte := if notBorrowOf a b then a - b else 0

/-- `8xy5` SUB Vx, Vy (R137). -/
def execSubReg (x y : Reg) (s : State) : Host.Outcome State Fault Refusal :=
  .next (s.setResultAndFlag x (flooredSub (s.reg x) (s.reg y)) (notBorrowOf (s.reg x) (s.reg y))).advance

/-- `8xy6` SHR Vx, Vy (R138). -/
def execShrReg (x y : Reg) (s : State) : Host.Outcome State Fault Refusal :=
  .next (s.setResultAndFlag x (s.shiftOperand x y >>> 1) (lowBitOf (s.shiftOperand x y))).advance

/-- `8xy7` SUBN Vx, Vy (R139): wraps (decision D6: log 16). -/
def execSubnReg (x y : Reg) (s : State) : Host.Outcome State Fault Refusal :=
  .next (s.setResultAndFlag x (s.reg y - s.reg x) (notBorrowOf (s.reg y) (s.reg x))).advance

/-- `8xyE` SHL Vx, Vy (R140). -/
def execShlReg (x y : Reg) (s : State) : Host.Outcome State Fault Refusal :=
  .next (s.setResultAndFlag x (s.shiftOperand x y <<< 1) (highBitOf (s.shiftOperand x y))).advance

/-- `Cxnn` RND Vx, nn (R141): the next draw, a free value, masked by `nn` (decision D34: log 5). -/
def execRnd (x : Reg) (nn : Byte) (s : State) : Host.Outcome State Fault Refusal :=
  .next ((s.setReg x (Config.drawByte s.rng &&& nn)).setRng (s.rng + 1)).advance

end Sys2Proof.Machine
end

