-- ==== Sys2Proof/Machine/Control.lean ====
section
/-! DEFINITION. Control flow: `00EE` `1nnn` `2nnn` `3xnn` `4xnn` `5xy0` `9xy0` `Bnnn` (41_control_flow.md R110 to R119).
The notation is the spec's: `pc` is the address of the instruction itself, and a target is final (R96). -/

namespace Sys2Proof.Machine

/-- `00EE` RET (R110): StackUnderflow on an empty stack (R232). -/
def execRet (s : State) : Host.Outcome State Fault Refusal :=
  match s.stack with
  | [] => .next (s.raise .stackUnderflow s.pc)
  | a :: rest => .next ((s.setStack rest).setPc a)

/-- `1nnn` JP nnn (R111). -/
def execJp (nnn : Word) (s : State) : Host.Outcome State Fault Refusal := .next (s.setPc nnn)

/-- `2nnn` CALL nnn (R112): StackOverflow on a full stack of a finite `STACK_DEPTH` (R233; decision D4: log 13). -/
def execCall (nnn : Word) (s : State) : Host.Outcome State Fault Refusal :=
  if s.stackFull then .next (s.raise .stackOverflow s.pc) else .next ((s.push (s.pc + 2)).setPc nnn)

/-- `3xnn` SE Vx, nn (R113). -/
def execSeImm (x : Reg) (nn : Byte) (s : State) : Host.Outcome State Fault Refusal :=
  .next (s.skipIf (decide (s.reg x = nn)))

/-- `4xnn` SNE Vx, nn (R114). -/
def execSneImm (x : Reg) (nn : Byte) (s : State) : Host.Outcome State Fault Refusal :=
  .next (s.skipIf (decide (s.reg x ≠ nn)))

/-- `5xy0` SE Vx, Vy (R115). -/
def execSeReg (x y : Reg) (s : State) : Host.Outcome State Fault Refusal :=
  .next (s.skipIf (decide (s.reg x = s.reg y)))

/-- `9xy0` SNE Vx, Vy (R116). -/
def execSneReg (x y : Reg) (s : State) : Host.Outcome State Fault Refusal :=
  .next (s.skipIf (decide (s.reg x ≠ s.reg y)))

/-- `Bnnn` JP V0, nnn (R117). -/
def execJpV0 (nnn : Word) (s : State) : Host.Outcome State Fault Refusal := .next (s.setPc (s.jumpOffsetTarget nnn))

end Sys2Proof.Machine
end

