-- ==== Sys2Proof/Machine/Index.lean ====
section
/-! DEFINITION. The index register and the memory transfers: `Annn` `Fx1E` `Fx29` `Fx33` `Fx55` `Fx65`
(43_index_memory.md R160 to R166). The range is checked before any write (20_memory.md R56). -/

namespace Sys2Proof.Machine

/-- `Annn` LD I, nnn (R160). -/
def execLdI (nnn : Word) (s : State) : Host.Outcome State Fault Refusal := .next (s.setI nnn).advance

/-- `Fx1E` ADD I, Vx (R161): modulo 65536, no flag (decision D11: log 20). -/
def execAddI (x : Reg) (s : State) : Host.Outcome State Fault Refusal :=
  .next (s.setI (s.i + (s.reg x).setWidth 16)).advance

/-- `Fx29` LD F, Vx (R162). -/
def execLdFont (x : Reg) (s : State) : Host.Outcome State Fault Refusal := .next (s.setI (s.glyphAddress x)).advance

/-- `Fx33` LD B, Vx (R163). -/
def execLdBcd (x : Reg) (s : State) : Host.Outcome State Fault Refusal :=
  match firstBadAddress s.i 3 with
  | some a => .next (s.raise .addressOutOfRange a)
  | none => .next (s.writeBytes s.i.toNat (bcdDigits (s.reg x))).advance

/-- `Fx55` LD [I], Vx (R164); `I` is not changed (decision D9: log 18). -/
def execStoreRegs (x : Reg) (s : State) : Host.Outcome State Fault Refusal :=
  match firstBadAddress s.i (x.val + 1) with
  | some a => .next (s.raise .addressOutOfRange a)
  | none => .next (s.writeBytes s.i.toNat (s.regsUpTo x)).advance

/-- `Fx65` LD Vx, [I] (R165); `I` is not changed (decision D9: log 18). -/
def execLoadRegs (x : Reg) (s : State) : Host.Outcome State Fault Refusal :=
  match firstBadAddress s.i (x.val + 1) with
  | some a => .next (s.raise .addressOutOfRange a)
  | none => .next (s.setV (s.regsLoadedFrom s.i.toNat x)).advance

end Sys2Proof.Machine
end

