-- ==== Sys2Proof/Machine/Keypad.lean ====
section
/-! DEFINITION. The keypad instructions `Ex9E` `ExA1` `Fx0A` (45_keypad.md R200 to R202) and the mask's two updates
(R203, R204). -/

namespace Sys2Proof.Machine

/-- `Ex9E` SKP Vx (R200). -/
def execSkp (x : Reg) (s : State) : Host.Outcome State Fault Refusal :=
  .next (s.skipIf (keyDown s.keys (s.reg x).toNat))

/-- `ExA1` SKNP Vx (R201). -/
def execSknp (x : Reg) (s : State) : Host.Outcome State Fault Refusal :=
  .next (s.skipIf (!keyDown s.keys (s.reg x).toNat))

/-- `Fx0A` LD Vx, K (R202): with no key down nothing changes and the same instruction is fetched again; else the least
key down is stored. -/
def execLdKey (x : Reg) (s : State) : Host.Outcome State Fault Refusal :=
  match lowestKey s.keys with
  | none => .next s
  | some k => .next (s.setReg x (BitVec.ofNat 8 k)).advance

/-- `K | (1 << k)` for a key code 0 to 15; a code above changes nothing (R203; decision D19: log 23). -/
def pressKey (keys : BitVec 16) (k : Nat) : BitVec 16 := if k ≤ 15 then keys ||| (1#16 <<< k) else keys

/-- `K & ~(1 << k)` for a key code 0 to 15; a code above changes nothing (R204; decision D19: log 23). -/
def releaseKey (keys : BitVec 16) (k : Nat) : BitVec 16 := if k ≤ 15 then keys &&& ~~~(1#16 <<< k) else keys

end Sys2Proof.Machine
end

