-- ==== Sys2Proof/Machine/Screen.lean ====
section
/-! DEFINITION. The display instructions `00E0` and `Dxyn`, and the render pipeline: the pixel buffer and the frame queue
(44_display_frame.md R180 to R191). -/

namespace Sys2Proof.Machine

/-! ### Drawing (R181) -/

/-- The display so far and whether a lit pixel has been turned off. -/
abbrev Canvas := Display × Bool

/-- One sprite pixel: clipped off the display (never wrapped), else a set bit inverts the cell and collides if it was lit
(R181; decision D15: log 22). -/
def drawPixel (px py : Nat) (bit : Bool) (c : Canvas) : Canvas :=
  if px < Config.displayW ∧ py < Config.displayH ∧ bit = true then
    (c.1.put px py (!c.1.lit px py), c.2 || c.1.lit px py)
  else c

/-- One sprite byte as a row of eight pixels, bit 7 leftmost (R181; decision D14: log 22). -/
def drawRow (row : Byte) (px0 py : Nat) (c : Canvas) : Canvas :=
  (List.range 8).foldl (fun c b => drawPixel (px0 + b) py (row.getLsbD (7 - b)) c) c

/-- The sprite's bytes as rows from `py` down, the first byte on top (R181). -/
def drawRows : List Byte → Nat → Nat → Canvas → Canvas
  | [], _, _, c => c
  | row :: rows, px0, py, c => drawRows rows px0 (py + 1) (drawRow row px0 py c)

/-- `00E0` CLS (R180). -/
def execCls (s : State) : Host.Outcome State Fault Refusal :=
  .next (s.setDisplay Display.blank).advance

/-- `Dxyn` DRW Vx, Vy, n (R181): the coordinates are read before `VF` is written (40_execution_cycle.md R100), the sprite
is read from `I` on, `n = 0` draws nothing and clears `VF` (decision D16: log 22). -/
def execDrw (x y : Reg) (n : Nat) (s : State) : Host.Outcome State Fault Refusal :=
  match firstBadAddress s.i n with
  | some a => .next (s.raise .addressOutOfRange a)
  | none =>
    let c := drawRows (s.readBytes s.i.toNat n) (s.reg x).toNat (s.reg y).toNat (s.display, false)
    .next ((s.setDisplay c.1).setVF c.2).advance

/-! ### Frames (R185 to R190) -/

/-- The colour of a cell (R185; decision D27: log 9). -/
def colourOf (p : Params) (lit : Bool) : Colour := if lit then p.litColour else p.unlitColour

/-- The display rendered into a new pixel buffer: pixel `(px, py)` at entry `py * 64 + px` (R185, R186). -/
def renderFrame (p : Params) (d : Display) : Frame :=
  ⟨d.cells.map (colourOf p), (List.length_map ..).trans d.size⟩

/-- `Enqueue(P)`: append, then drop the oldest frames above `FRAME_CAP` (R188; decision D28: log 26). -/
def enqueue (cap : Nat) (q : List Frame) (f : Frame) : List Frame := (q ++ [f]).drop ((q ++ [f]).length - cap)

namespace State

/-- `ProduceFrame()` (R186). -/
def produceFrame (s : State) : State :=
  s.setFrames (enqueue s.params.frameCap s.frames (renderFrame s.params s.display))

/-- What `ConsumeFrame()` returns: the newest frame, or `none` when the queue is empty (R189; decision D28: log 26). -/
def newestFrame (s : State) : Option Frame := s.frames.getLast?

end State
end Sys2Proof.Machine
end

