-- ==== Sys2Proof/Machine/Timers.lean ====
section
/-! DEFINITION. The timer instructions `Fx07` `Fx15` `Fx18` and the TimerPair's steps (46_timers.md R215 to R222). -/

namespace Sys2Proof.Machine

/-- `Fx07` LD Vx, DT (R215). -/
def execLdFromDt (x : Reg) (s : State) : Host.Outcome State Fault Refusal := .next (s.setReg x s.dt).advance

/-- `Fx15` LD DT, Vx (R216). -/
def execLdToDt (x : Reg) (s : State) : Host.Outcome State Fault Refusal := .next (s.setDt (s.reg x)).advance

/-- `Fx18` LD ST, Vx (R217). -/
def execLdToSt (x : Reg) (s : State) : Host.Outcome State Fault Refusal := .next (s.setSt (s.reg x)).advance

/-- One decrement, saturating at zero (R218). -/
def countDown (b : Byte) : Byte := if b = 0 then 0 else b - 1

/-- `TimerTick`, one atomic step (R218). -/
def timerTick (s : State) : Host.Outcome State Fault Refusal :=
  if s.params.tickAtomic = true ∧ s.runState = .running then
    .next ((s.setDt (countDown s.dt)).setSt (countDown s.st))
  else .refused .timerTickNotEnabled

/-- `TickRead` (R219; decisions D25, D45: log 12). -/
def tickRead (s : State) : Host.Outcome State Fault Refusal :=
  if s.params.tickAtomic = false ∧ s.runState = .running ∧ s.tickLatch = .idle then
    .next (s.setTickLatch (.latched s.dt s.st))
  else .refused .tickReadNotEnabled

/-- `TickWrite`, enabled whenever a tick is in flight (R219). A Stop that waited for it returns with it, in the same step
(60_exceptions.md R245; log 41). -/
def tickWrite (s : State) : Host.Outcome State Fault Refusal :=
  match s.tickLatch with
  | .latched d t => .next (((s.setDt (countDown d)).setSt (countDown t)).setTickLatch .idle).stopReturns
  | .idle => .refused .tickWriteNotEnabled

/-- The TimerPair's output `sound_active` (R221; decision D35: log 38). -/
def State.soundActive (s : State) : Bool := decide (s.st ≠ 0)

end Sys2Proof.Machine
end

