-- ==== Sys2Proof/Machine/HostOps.lean ====
section
/-! DEFINITION. The Host's operations (60_exceptions.md R244 to R250, 70_reset_and_hazards.md R263 to R265,
44_display_frame.md R189, 45_keypad.md R203 to R206). Each is one indivisible step, and what it returns is kept in
`reply` (log 29); only a Stop that meets a tick in flight returns later, when the tick has completed (R245, log 41). -/

namespace Sys2Proof.Machine
namespace State

/-- `load(bytes)`: at most 3584 bytes from 0x200, else `RomTooLarge` with memory unchanged (70 R263, R265). -/
def loadRom (s : State) (rom : List Byte) : State :=
  if rom.length ≤ Config.memSize - Config.programOrigin then
    (s.writeBytes Config.programOrigin rom).answer .done
  else s.answer .romTooLarge

/-- `Stop` from running: `RS` becomes stopped, and Stop returns at once when no tick is in flight, else with the tick's
write-back (R245). Otherwise it returns `NotRunning` and changes nothing (R246; decision D24: log 28). -/
def stopRun (s : State) : State :=
  if s.runState = .running then
    if s.tickLatch = .idle then (s.setRunState .stopped).answer .done
    else (s.setRunState .stopped).setStopPending true
  else s.answer .notRunning

end State

/-- A load is enabled exactly while `RS` is idle or stopped (70 R264, 60 R248; decision D30: log 27). -/
def loadStep (loaded : State) (s : State) : Host.Outcome State Fault Refusal :=
  if s.runState = .running then .refused .loadWhileRunning else .next loaded

/-- `LoadBuffer` (70 R263 to R265). -/
def hostLoad (rom : List Byte) (s : State) : Host.Outcome State Fault Refusal := loadStep (s.loadRom rom) s

/-- `LoadFile`: the file's bytes are loaded, an I/O error is passed on and changes nothing (R249; log 30). -/
def hostLoadFile (file : FileRead) (s : State) : Host.Outcome State Fault Refusal :=
  match file with
  | .bytes rom => hostLoad rom s
  | .ioError code => loadStep (s.answer (.ioError code)) s

/-- `Run`, enabled always (R244, R248). -/
def hostRun (s : State) : Host.Outcome State Fault Refusal := .next (s.resume.answer .done)

/-- One Host operation (R248). -/
def hostStep (op : HostOp) (s : State) : Host.Outcome State Fault Refusal :=
  match op with
  | .loadBuffer rom => hostLoad rom s
  | .loadFile file => hostLoadFile file s
  | .run => hostRun s
  | .stop => .next s.stopRun
  | .consumeFrame => .next ((s.setFrames []).answer (.frame s.newestFrame))
  | .press k => .next ((s.setKeys (pressKey s.keys k)).answer .done)
  | .release k => .next ((s.setKeys (releaseKey s.keys k)).answer .done)
  | .pressed k => .next (s.answer (.pressed (keyDown s.keys k)))
  | .readFault => .next (s.answer (.fault s.faultLatch))

end Sys2Proof.Machine
end

