-- ==== Sys2Proof/Machine/Engine.lean ====
section
/-! DEFINITION. The Engine's step (40_execution_cycle.md R90 to R99), the move of any agent (60_exceptions.md R243), and
the placing of one instruction where the next step fetches. -/

namespace Sys2Proof.Machine
namespace State

/-- The Engine takes a step only while `RS = running` and `FAULT = none` (R90). -/
def engineEnabled (s : State) : Bool := decide (s.runState = .running ∧ s.faultLatch = none)

/-- Whether `FetchCheck(pc)` raises `PcOutOfRange(pc)` (R91; decision D13: log 11). -/
def pcRefused (s : State) : Bool :=
  decide (0x0FFE < s.pc.toNat) ||
    (decide (s.params.fetchCheck = .strict) && (s.pc.getLsbD 0 || decide (s.pc.toNat < 0x0200)))

/-- The end of a completed step: `bc` counts it, and the `IPF`-th produces a frame and returns `bc` to 0 (R99; decision
D29: log 25). -/
def countStep (s : State) : State :=
  if s.bc + 1 = s.params.ipf then s.produceFrame.setBc 0 else s.setBc (s.bc + 1)

/-- What the Engine adds after Execute: a step that raised counts nothing (R98), any other is counted (R99). -/
def finishStep (s : State) : State := if s.faultLatch = none then s.countStep else s

end State

/-- `EngineStep()`: fetch check, fetch, decode, execute, count (R90), the stages in this order (60_exceptions.md R237). -/
def engineStep (s : State) : Host.Outcome State Fault Refusal :=
  if s.engineEnabled then
    if s.pcRefused then .next (s.raise .pcOutOfRange s.pc)
    else
      match decodeWord s.fetch with
      | none => .next (s.raise .invalidOpcode s.fetch)
      | some i =>
        match exec i s with
        | .next t => .next t.finishStep
        | .fault r => .fault r
        | .refused r => .refused r
  else .fault .engineNotEnabled

/-- One step of one agent (00_scope.md R5, 60_exceptions.md R243). -/
def moveStep (m : Move) (s : State) : Host.Outcome State Fault Refusal :=
  match m with
  | .engine => engineStep s
  | .tickRead => tickRead s
  | .tickWrite => tickWrite s
  | .timerTick => timerTick s
  | .host op => hostStep op s

/-- The next scheduled move, or the Engine's when none is scheduled (log 6). -/
def scheduledStep (s : State) : Host.Outcome State Fault Refusal :=
  match s.schedule with
  | [] => engineStep s
  | m :: rest => moveStep m (s.setSchedule rest)

/-- Store an opcode at `pc` and make the Engine's step the next one: running, no fault latched, nothing scheduled. It
stands for a ROM load and Run (log 31). -/
def State.placeOpcode (s : State) (op : Word) : State :=
  (((s.writeBytes s.pc.toNat (bytesOfOpcode op)).setRunState .running).setFaultLatch none).setSchedule []

end Sys2Proof.Machine
end

