-- ==== Sys2Proof/Machine/Step.lean ====
section
/-! DEFINITION. The machine's step, and one instruction placed where it fetches. -/

namespace Sys2Proof.Machine

/-- One step: of the agent the schedule names, or of the Engine (60_exceptions.md R243; log 6). -/
def step (s : State) : Host.Outcome State Fault Refusal := scheduledStep s

/-- `s` with the instruction whose bits are `w` stored where `step` fetches next, and everything set that the very next
step needs to run it (log 31). -/
def State.withFetchWord (s : State) (nbits w : Nat) : State := s.placeOpcode (BitVec.ofNat 16 (w % 2 ^ nbits))

end Sys2Proof.Machine
end

