-- ==== Sys2Proof/Safety.lean ====
section
/-! DEFINITION. The terms claims use: what an instruction may change (its frame), the invariant of every run, and the
states a machine can reach. -/

namespace Sys2Proof.Machine

/-- What an instruction may change. Everything not named stays as it was; the program counter is not part of a frame. -/
structure Changes where
  /-- The general registers, `VF` among them, that may change. -/
  regs : Reg → Bool := fun _ => false
  i : Bool := false
  stack : Bool := false
  dt : Bool := false
  st : Bool := false
  display : Bool := false
  rng : Bool := false
  /-- The addresses whose byte may change. -/
  mem : Nat → Bool := fun _ => false

/-- `t` differs from `s` at most in the program counter and in what `c` names. What no instruction writes stays: the
parameters, the keypad mask, the frame queue, the batch counter, the run state, the fault latch, the tick latch, the
schedule, the last reply and a Stop that waits to return. -/
structure FrameHolds (c : Changes) (s t : State) : Prop where
  regs : ∀ r, c.regs r = false → t.reg r = s.reg r
  i : c.i = false → t.i = s.i
  stack : c.stack = false → t.stack = s.stack
  dt : c.dt = false → t.dt = s.dt
  st : c.st = false → t.st = s.st
  display : c.display = false → t.display = s.display
  rng : c.rng = false → t.rng = s.rng
  mem : ∀ a, c.mem a = false → t.readByte a = s.readByte a
  params : t.params = s.params
  keys : t.keys = s.keys
  frames : t.frames = s.frames
  bc : t.bc = s.bc
  runState : t.runState = s.runState
  faultLatch : t.faultLatch = s.faultLatch
  tickLatch : t.tickLatch = s.tickLatch
  schedule : t.schedule = s.schedule
  reply : t.reply = s.reply
  stopPending : t.stopPending = s.stopPending

/-- Only the register `x` may change. -/
def onlyReg (x : Reg) : Changes := { regs := fun r => decide (r = x) }

/-- Only the register `x` and the flag `VF` may change. -/
def onlyRegAndFlag (x : Reg) : Changes := { regs := fun r => decide (r = x) || decide (r = vF) }

/-- Only the register `x` and the random source may change. -/
def onlyRegAndRng (x : Reg) : Changes := { regs := fun r => decide (r = x), rng := true }

/-- Only the flag `VF` and the display may change. -/
def onlyFlagAndDisplay : Changes := { regs := fun r => decide (r = vF), display := true }

/-- Only the registers `V0` to `Vx` may change. -/
def onlyRegsUpTo (x : Reg) : Changes := { regs := fun r => decide (r ≤ x) }

/-- Only the `count` bytes of memory from `base` on may change. -/
def onlyBytes (base count : Nat) : Changes := { mem := fun a => decide (base ≤ a) && decide (a < base + count) }

/-- Nothing but the program counter may change. -/
def onlyPc : Changes := {}

/-- `t` is `s` with a fault taken: the latch and the run state are written, nothing else (60_exceptions.md R236). -/
def FaultTaken (code : FaultCode) (info : Word) (s t : State) : Prop :=
  t = { s with faultLatch := some ⟨code, info⟩, runState := .stopped }

/-- Every pixel of a frame is one of the two colours (44_display_frame.md R185). -/
def Frame.TwoColoured (p : Params) (f : Frame) : Prop := ∀ c ∈ f.pixels, c = p.litColour ∨ c = p.unlitColour

/-- What holds of the machine from construction on, whatever the agents do. -/
structure State.Inv (s : State) : Prop where
  /-- Memory is in its canonical form. -/
  mem : Memory.wf s.memBase s.mem = true
  /-- `0 <= bc < IPF` (10_state.md R34). -/
  bc : s.bc < s.params.ipf
  /-- The queue holds at most `FRAME_CAP` frames (10_state.md R33). -/
  frames : s.frames.length ≤ s.params.frameCap
  /-- Every buffered frame has two colours only (44_display_frame.md R185). -/
  colours : ∀ f ∈ s.frames, Frame.TwoColoured s.params f
  /-- A latched fault goes with a stopped machine (60_exceptions.md R236, R239). -/
  fault : s.faultLatch ≠ none → s.runState = .stopped
  /-- With atomic ticks the tick latch is idle (10_state.md R38). -/
  tick : s.params.tickAtomic = true → s.tickLatch = .idle
  /-- A Stop that waits to return waits for a tick in flight (60_exceptions.md R245). -/
  stop : s.stopPending = true → s.tickLatch ≠ .idle
  /-- A finite `STACK_DEPTH` bounds the stack (10_state.md R26). -/
  stack : ∀ d, s.params.stackDepth = some d → s.stack.length ≤ d

/-- How far control can go: `pc` is at most 0x10FE, and every return address is at most 0x1000 (10_state.md R25,
41_control_flow.md R112). -/
structure State.PcBounded (s : State) : Prop where
  pc : s.pc.toNat ≤ 0x10FE
  stack : ∀ a ∈ s.stack, a.toNat ≤ 0x1000

/-- With the strict fetch check every return address is even and lies after the program's origin. -/
def State.ReturnsAligned (s : State) : Prop :=
  s.params.fetchCheck = .strict → ∀ a ∈ s.stack, a.toNat % 2 = 0 ∧ 0x202 ≤ a.toNat ∧ a.toNat ≤ 0x1000

/-- The states a machine with valid parameters reaches, whatever schedule its agents follow: each step may be preceded by
any change of the schedule (60_exceptions.md R243). -/
inductive Reachable : State → Prop where
  | construct (p : Params) (h : p.Valid) : Reachable (State.construct p)
  | next {s t : State} (sched : List Move) (hs : Reachable s) (h : step (s.setSchedule sched) = .next t) : Reachable t

end Sys2Proof.Machine
end

