-- ==== Sys2Proof/Certificates/Slice0/Obligations.lean ====
section
/-! DEFINITION. The statements for the provers: what the numbered rules of spec/ say the instructions, the agents and the
whole machine do. A statement about an instruction gives its encoding as a number, that it completes, its result, its
program counter and its frame. Where a clause rests on a decision of the spec (a row D<n> of 92_eei_decisions.md) and not
on the source, the docstring names it and the log entry that records it. -/

open Sys2Proof Sys2Proof.Machine

/-- An opcode of format `XI` or `X`, as a number (30_encoding.md R72). -/
def Sys2Proof.wordXI (family : Nat) (x : Reg) (nn : Nat) : Word := BitVec.ofNat 16 (family * 4096 + x.val * 256 + nn)

/-- An opcode of format `XY` or `XYN`, as a number (30_encoding.md R72). -/
def Sys2Proof.wordXY (family : Nat) (x y : Reg) (n : Nat) : Word :=
  BitVec.ofNat 16 (family * 4096 + x.val * 256 + y.val * 16 + n)

/-- An opcode of format `A`, as a number (30_encoding.md R72). -/
def Sys2Proof.wordA (family : Nat) (nnn : Word) : Word := BitVec.ofNat 16 (family * 4096 + nnn.toNat)

/-- The Engine may step (40_execution_cycle.md R90), and the step is its own: nothing is scheduled before it. -/
abbrev Sys2Proof.Machine.EngineReady (s : State) : Prop :=
  s.schedule = [] ∧ s.runState = .running ∧ s.faultLatch = none

/-- The program counters that rule R91 refuses (40_execution_cycle.md R91). -/
abbrev Sys2Proof.Machine.BadPc (s : State) : Prop :=
  0x0FFE < s.pc.toNat ∨ (s.params.fetchCheck = .strict ∧ (s.pc.toNat % 2 = 1 ∨ s.pc.toNat < 0x0200))

/-- The two bytes at the program counter decode to `i` (20_memory.md R53). -/
abbrev Sys2Proof.Machine.Fetches (s : State) (i : Instr) : Prop :=
  decode [s.readByte s.pc.toNat, s.readByte (s.pc.toNat + 1)] = .ok (i, [])

/-- A key is down: the key code is at most 15 and its bit of the mask is set (45_keypad.md R205). -/
abbrev Sys2Proof.Machine.KeyIsDown (s : State) (k : Nat) : Prop := k ≤ 15 ∧ s.keys.getLsbD k = true

/-- The bit of the sprite at `I` that covers the cell `(px, py)` when it is drawn from `(Vx, Vy)` with height `n`; `false`
outside the sprite (44_display_frame.md R181). -/
def Sys2Proof.Machine.spriteBit (s : State) (x y : Reg) (n px py : Nat) : Bool :=
  decide ((s.reg x).toNat ≤ px ∧ px < (s.reg x).toNat + 8 ∧ (s.reg y).toNat ≤ py ∧ py < (s.reg y).toNat + n) &&
    (s.readByte (s.i.toNat + (py - (s.reg y).toNat))).getLsbD (7 - (px - (s.reg x).toNat))

/-- The hundreds, tens and ones of a number below 1000 (43_index_memory.md R163). -/
def Sys2Proof.decimalDigits (n : Nat) : List Byte :=
  [BitVec.ofNat 8 (n / 100), BitVec.ofNat 8 (n / 10 % 10), BitVec.ofNat 8 (n % 10)]

/-- The byte at an address once the first `count` bytes of a list are stored at `I` on (20_memory.md R55, R59). -/
def Sys2Proof.Machine.byteAfterStore (s : State) (bs : List Byte) (count a : Nat) : Byte :=
  if s.i.toNat ≤ a ∧ a < s.i.toNat + count then bs.getD (a - s.i.toNat) 0 else s.readByte a

/-! ### Encoding -/

/-- Decode and encode agree: the opcode of a well-formed instruction, laid out as memory holds it and followed by any
bytes, decodes to that instruction with every operand at every value its field admits (30_encoding.md R70 to R73; that
memory holds the high byte first is read from 20_memory.md R53, DEDUCED, log 32). -/
def Obligations.EveryEncodingDecodesBack : Prop :=
  ∀ i : Instr, i.WellFormed →
    decodeWord (encode i) = some i ∧ ∀ rest, decode (bytesOfOpcode (encode i) ++ rest) = .ok (i, rest)

/-- What the decoder gives is a well-formed instruction, and its encoding is the opcode it came from: no bit of an opcode
is dropped (30_encoding.md R72, R82). -/
def Obligations.DecodedInstructionEncodesBack : Prop :=
  ∀ (op : Word) (i : Instr), decodeWord op = some i → i.WellFormed ∧ encode i = op

/-- The decoder follows the opcode map of rule R70: an opcode that a row selects decodes to that row's instruction with
the fields of rule R72, an opcode that no row selects decodes to nothing (R80), and no opcode is selected by two rows
(30_encoding.md R70, R72 to R80; that `0nnn`, `5xyn` and `9xyn` outside the rows are illegal is DEDUCED by the spec's
decisions D36 and D37, log 35). -/
def Obligations.DecoderFollowsOpcodeMap : Prop :=
  opcodeRows.length = 34 ∧
  (∀ (op : Word) (r : OpcodeRow), r ∈ opcodeRows → r.Selects op →
    ∀ x y : Reg, x.val = op.toNat / 256 % 16 → y.val = op.toNat / 16 % 16 →
      decodeWord op = some (r.build x y (op.toNat % 16) (BitVec.ofNat 8 (op.toNat % 256))
        (BitVec.ofNat 16 (op.toNat % 4096)))) ∧
  (∀ op : Word, (∀ r ∈ opcodeRows, ¬ r.Selects op) → decodeWord op = none) ∧
  (∀ op : Word, opcodeRows.Pairwise fun r r' => ¬ (r.Selects op ∧ r'.Selects op))

/-- A few words written out from the encodings of rule R70, one family each, and five illegal ones (95_test_vectors.md
section 2.1; the byte order is DEDUCED, log 32; that `0123` and `5AB1` are illegal is the spec's decisions D36 and D37,
log 35). -/
def Obligations.SampleWordsDecode : Prop :=
  decode [0x60, 0xBE] = .ok (.ldImm 0 0xBE, []) ∧ decode [0x00, 0xE0] = .ok (.cls, []) ∧
  decode [0x00, 0xEE] = .ok (.ret, []) ∧ decode [0x5A, 0xB0] = .ok (.seReg 0xA 0xB, []) ∧
  decode [0x8A, 0xBE] = .ok (.shlReg 0xA 0xB, []) ∧ decode [0xA3, 0x00] = .ok (.ldI 0x300, []) ∧
  decode [0xD1, 0x25] = .ok (.drw 1 2 5, []) ∧ decode [0xE1, 0xA1] = .ok (.sknp 1, []) ∧
  decode [0xF1, 0x07] = .ok (.ldFromDt 1, []) ∧ decode [0xFA, 0x33] = .ok (.ldBcd 0xA, []) ∧
  decode [0x01, 0x23] = .error (.invalidOpcode 0x0123) ∧ decode [0x5A, 0xB1] = .error (.invalidOpcode 0x5AB1) ∧
  decode [0x8A, 0xB8] = .error (.invalidOpcode 0x8AB8) ∧ decode [0xE1, 0x9F] = .error (.invalidOpcode 0xE19F) ∧
  decode [0xF1, 0xFF] = .error (.invalidOpcode 0xF1FF)

/-! ### The execution cycle -/

/-- A step runs the decoded instruction: when the Engine may step and the two bytes at an accepted program counter decode
to `i`, the step is exec of `i` at that state, with the count of rule R99 added when `i` raised nothing: `bc` one higher,
or, at `IPF`, a frame of the display that `i` left enqueued and `bc` back at 0 (40_execution_cycle.md R90, R92 to R94; the
counting is R99 with the spec's decision D29, log 25; the program counters accepted are R91 with D13, log 11; the order of
the two bytes is 20_memory.md R53, DEDUCED, log 32). -/
def Obligations.StepRunsTheDecodedInstruction : Prop :=
  ∀ (s t : State) (i : Instr), EngineReady s → ¬ BadPc s → Fetches s i → exec i s = .next t →
    (t.faultLatch ≠ none → step s = .next t) ∧
    (t.faultLatch = none → t.bc + 1 ≠ t.params.ipf → step s = .next { t with bc := t.bc + 1 }) ∧
    (t.faultLatch = none → t.bc + 1 = t.params.ipf →
      step s = .next { t with
        bc := 0, frames := enqueue t.params.frameCap t.frames (renderFrame t.params t.display) })

/-- A scheduled move is the next step, with the rest of the schedule left to come, and an empty schedule leaves the step to
the Engine: so every finite interleaving of the three agents is the run of some schedule (60_exceptions.md R243). The
schedule is the model's own (log 6). -/
def Obligations.ScheduledMoveIsTakenNext : Prop :=
  ∀ (s : State) (rest : List Move),
    (∀ m, s.schedule = m :: rest → step s = moveStep m { s with schedule := rest }) ∧
    (s.schedule = [] → step s = moveStep .engine s) ∧
    (s.schedule = .engine :: rest → ∀ t, step { s with schedule := [] } = .next t →
      step s = .next { t with schedule := rest })

/-- The Engine takes a step only while `RS = running` and `FAULT = none`; otherwise it has no step: asked for one, the
machine stops with `engineNotEnabled`. Whenever it may step it has a next state: no opcode, operand or program counter
stops the model (40_execution_cycle.md R90). That "no step" is an outcome `fault` of the model is the model's choice
(log 7). -/
def Obligations.EngineStepsExactlyWhenEnabled : Prop :=
  ∀ s : State, s.schedule = [] →
    ((s.runState = .running ∧ s.faultLatch = none) → ∃ t, step s = .next t) ∧
    (¬ (s.runState = .running ∧ s.faultLatch = none) → step s = .fault .engineNotEnabled)

/-- The fetch check: a step at a refused program counter raises `PcOutOfRange(pc)` before anything else, and no other step
raises it (40_execution_cycle.md R91, 60_exceptions.md R235; the spec's decision D13, log 11; that the run state becomes
stopped is 60_exceptions.md R236 with decision D21, log 24). -/
def Obligations.FetchCheckRaisesPcOutOfRange : Prop :=
  ∀ s : State, EngineReady s →
    (BadPc s → ∃ t, step s = .next t ∧ FaultTaken .pcOutOfRange s.pc s t) ∧
    (¬ BadPc s → ∀ t f, step s = .next t → t.faultLatch = some f → f.code ≠ .pcOutOfRange)

/-- Every opcode that matches no row of rule R70 is fatal to the run: the fault latches with the raw 16-bit opcode as its
information, the run state becomes stopped and nothing else changes (60_exceptions.md R231, R236). That it is fatal is the
policy the spec takes of the two its source leaves open, and that some patterns are illegal is decisions D36 and D37 (log
35); the latch and the stopped run state are R236 with decision D21 (log 24); the fetch check is D13 (log 11). That the
byte at `pc` is the high half of the fetched opcode is 40_execution_cycle.md R92 and 20_memory.md R53, DEDUCED (log 32). -/
def Obligations.IllegalOpcodeIsFatal : Prop :=
  ∀ (s : State) (op : Word), EngineReady s → ¬ BadPc s →
    op.toNat = 256 * (s.readByte s.pc.toNat).toNat + (s.readByte (s.pc.toNat + 1)).toNat →
    (∀ r ∈ opcodeRows, ¬ r.Selects op) → ∃ t, step s = .next t ∧ FaultTaken .invalidOpcode op s t

/-- A raise aborts the step: an Engine step after which a fault is latched changed nothing but the latch and the run
state, which is then stopped, so `pc` keeps the faulting instruction's address, `bc` is not counted and no frame is
produced (40_execution_cycle.md R98, 60_exceptions.md R236; that the run state becomes stopped is the spec's decision D21,
log 24). -/
def Obligations.RaiseChangesNothingElse : Prop :=
  ∀ (s t : State) (f : Latched), s.schedule = [] → step s = .next t → t.faultLatch = some f →
    FaultTaken f.code f.info s t

/-- The stages are met in order, and each fault of the execute stage has one kind of instruction that raises it
(60_exceptions.md R230 to R237; the order is the spec's decision D20, log 40; the faults themselves rest on D4, log 13,
D12, log 21, D13, log 11, and log 35; the order of the fetched bytes is 20_memory.md R53, DEDUCED, log 32). -/
def Obligations.FaultsFollowTheStageOrder : Prop :=
  ∀ (s t : State) (f : Latched), EngineReady s → step s = .next t → t.faultLatch = some f →
    (f.code = .pcOutOfRange ↔ BadPc s) ∧
    (f.code = .invalidOpcode ↔ ¬ BadPc s ∧ ∀ i, ¬ Fetches s i) ∧
    (f.code = .stackUnderflow → Fetches s .ret ∧ s.stack = []) ∧
    (f.code = .stackOverflow → ∃ nnn, Fetches s (.call nnn) ∧ s.params.stackDepth = some s.stack.length) ∧
    (f.code = .addressOutOfRange → (∃ x y n, Fetches s (.drw x y n)) ∨ (∃ x, Fetches s (.ldBcd x)) ∨
      (∃ x, Fetches s (.storeRegs x)) ∨ (∃ x, Fetches s (.loadRegs x)))

/-- Every instruction but a return, a jump, a call, a skip and the key wait ends with `pc + 2`, unless it raised a fault;
a skip ends with `pc + 2` or `pc + 4`, and the key wait leaves `pc` only while no key is down (40_execution_cycle.md R95;
that the sum is 16 bits wide is the spec's decision D42, log 37). -/
def Obligations.DefaultAdvanceIsTwo : Prop :=
  ∀ (i : Instr) (s t : State), exec i s = .next t → s.faultLatch = none → t.faultLatch = none →
    match i with
    | .ret | .jp _ | .call _ | .jpV0 _ => True
    | .seImm _ _ | .sneImm _ _ | .seReg _ _ | .sneReg _ _ | .skp _ | .sknp _ => t.pc = s.pc + 2 ∨ t.pc = s.pc + 4
    | .ldKey _ => if s.keys = 0 then t.pc = s.pc else t.pc = s.pc + 2
    | _ => t.pc = s.pc + 2

/-- A completed Engine step is counted, and the step that brings the count to `IPF` enqueues one frame, rendered from the
display as that step left it, and returns the count to 0 (40_execution_cycle.md R99; the spec's decision D29, log 25). -/
def Obligations.EveryBatchEndsWithOneFrame : Prop :=
  ∀ s t : State, s.schedule = [] → step s = .next t → t.faultLatch = none →
    (s.bc + 1 ≠ s.params.ipf → t.bc = s.bc + 1 ∧ t.frames = s.frames) ∧
    (s.bc + 1 = s.params.ipf → t.bc = 0 ∧
      t.frames = enqueue s.params.frameCap s.frames (renderFrame s.params t.display))

/-! ### Reset, parameters and invariants -/

/-- After construction, whatever the parameters: `pc` is 0x200, the run state is idle, the font lies at 0x050 to 0x09F and
everything else is zero, empty or none (10_state.md R40, 70_reset_and_hazards.md R262). The zeros are the spec's decision
D2, not its source's (log 2). -/
def Obligations.ConstructionValues : Prop :=
  ∀ p : Params, let s := State.construct p
    s.params = p ∧ (∀ r, s.reg r = 0) ∧ s.i = 0 ∧ s.pc = 0x0200 ∧ s.stack = [] ∧ s.dt = 0 ∧ s.st = 0 ∧ s.keys = 0 ∧
    (∀ px py, s.cell px py = false) ∧ (∀ a, (h : a < 80) → s.readByte (0x050 + a) = p.font[a]) ∧
    (∀ a, a < 0x050 ∨ 0x0A0 ≤ a → s.readByte a = 0) ∧ s.frames = [] ∧ s.bc = 0 ∧ s.runState = .idle ∧
    s.faultLatch = none ∧ s.tickLatch = .idle

/-- No step changes a constructor parameter. 00_scope.md R10 says so of `IPF` and `CLOCK_PERIOD`; that the others of rule R9
are fixed at construction too is the model's choice (log 1). -/
def Obligations.ParametersNeverChange : Prop :=
  ∀ s t : State, step s = .next t → t.params = s.params

/-- The invariant of State.Inv is kept by every step of every agent: memory keeps its canonical form, `bc` stays below
`IPF`, the queue stays within its cap and holds two-coloured frames, a latched fault goes with a stopped machine, atomic
ticks leave the tick latch idle, a Stop that has not returned waits for a tick in flight, a finite stack depth bounds the
stack. The memory's form is the model's (log 4), as is the waiting Stop (60_exceptions.md
R245, log 41); the rest are the spec's rules with its decisions D29 (log 25), D28 (log 26), D21 (log 24), D25 (log 12) and
D4 (log 13). -/
def Obligations.StepKeepsInvariant : Prop :=
  ∀ s t : State, s.Inv → step s = .next t → t.Inv

/-- No step takes the program counter above 0x10FE or pushes a return address above 0x1000, so that `pc` arithmetic never
wraps (10_state.md R25; the fetch check is the spec's decision D13, log 11, the width of `pc` D42, log 37). -/
def Obligations.StepKeepsPcBounded : Prop :=
  ∀ s t : State, s.PcBounded → step s = .next t → t.PcBounded

/-- With the strict fetch check every return address on the stack is even and between 0x202 and 0x1000: a return never
lands on an odd address or below the program; 0x1000, pushed by a call at 0x0FFE, faults at the next fetch
(41_control_flow.md R110, R112; the spec's decision D13, log 11). -/
def Obligations.StepKeepsReturnsAligned : Prop :=
  ∀ s t : State, s.ReturnsAligned → step s = .next t → t.ReturnsAligned

/-- The three invariants hold after construction with any valid parameters, in particular at reset. It starts from the
construction values of 10_state.md R40, most of which are the spec's decision D2 (log 2); that valid parameters have
`FRAME_CAP` at least 1 is the model's choice (log 14), as are State.Inv's form of memory (log 4) and its waiting Stop (log
41). -/
def Obligations.ConstructionMeetsInvariants : Prop :=
  (∀ p : Params, p.Valid → (State.construct p).Inv ∧ (State.construct p).PcBounded ∧
    (State.construct p).ReturnsAligned) ∧
  defaultParams.Valid ∧ State.reset.Inv

/-- Whatever the three agents do and in whatever order, from construction on: the three invariants hold in every state the
machine reaches (60_exceptions.md R243). The runs start from the construction values of the spec's decision D2 (log 2),
their interleaving is the model's schedule (log 6), and valid parameters have `FRAME_CAP` at least 1 (log 14). Of State.Inv
the memory's form (log 4) and the waiting Stop (R245, log 41) are the model's, and its other clauses rest on the spec's
decisions D29 (log 25), D28 (log 26), D21 (log 24), D25 (log 12) and D4 (log 13). State.PcBounded and
State.ReturnsAligned rest on the fetch check D13 (log 11), and the first on the width of `pc` D42 (log 37). -/
def Obligations.ReachableStatesMeetInvariants : Prop :=
  ∀ s : State, Reachable s → s.Inv ∧ s.PcBounded ∧ s.ReturnsAligned

/-! ### Control flow -/

/-- `00EE` RET: on an empty stack StackUnderflow with the `pc`, else the most recent return address is popped into `pc`
with no 2 added (41_control_flow.md R110, 60_exceptions.md R232; that the fault sets the run state to stopped is R236 with
the spec's decision D21, log 24). -/
def Obligations.ReturnPopsOrUnderflows : Prop :=
  decodeWord 0x00EE = some .ret ∧ ∀ s : State,
    (s.stack = [] → ∃ t, exec .ret s = .next t ∧ FaultTaken .stackUnderflow s.pc s t) ∧
    (∀ a rest, s.stack = a :: rest → ∃ t, exec .ret s = .next t ∧ t.pc = a ∧ t.stack = rest ∧
      FrameHolds { stack := true } s t)

/-- `1nnn` JP nnn and `Bnnn` JP V0, nnn: `pc` is the target, with no 2 added; the offset sum does not wrap
(41_control_flow.md R111, R117). -/
def Obligations.JumpsSetPc : Prop :=
  ∀ (nnn : Word) (s : State), Word.isAddr12 nnn →
    (decodeWord (wordA 0x1 nnn) = some (.jp nnn) ∧
      ∃ t, exec (.jp nnn) s = .next t ∧ t.pc = nnn ∧ FrameHolds onlyPc s t) ∧
    (decodeWord (wordA 0xB nnn) = some (.jpV0 nnn) ∧
      ∃ t, exec (.jpV0 nnn) s = .next t ∧ t.pc.toNat = nnn.toNat + (s.reg 0).toNat ∧ FrameHolds onlyPc s t)

/-- `2nnn` CALL nnn: StackOverflow when a finite `STACK_DEPTH` is reached, else `pc + 2` is pushed and `pc` is the target
(41_control_flow.md R112, 60_exceptions.md R233; the finite depth is the spec's decision D4, log 13; that the fault sets
the run state to stopped is R236 with decision D21, log 24). -/
def Obligations.CallPushesReturnAddress : Prop :=
  ∀ (nnn : Word) (s : State), Word.isAddr12 nnn →
    decodeWord (wordA 0x2 nnn) = some (.call nnn) ∧
    (s.params.stackDepth = some s.stack.length →
      ∃ t, exec (.call nnn) s = .next t ∧ FaultTaken .stackOverflow s.pc s t) ∧
    (s.params.stackDepth ≠ some s.stack.length →
      ∃ t, exec (.call nnn) s = .next t ∧ (∃ a, t.stack = a :: s.stack ∧ a.toNat = (s.pc.toNat + 2) % 65536) ∧
        t.pc = nnn ∧ FrameHolds { stack := true } s t)

/-- `3xnn` SE Vx, nn and `4xnn` SNE Vx, nn (41_control_flow.md R113, R114). -/
def Obligations.SkipsOnImmediate : Prop :=
  ∀ (x : Reg) (nn : Byte) (s : State),
    (decodeWord (wordXI 0x3 x nn.toNat) = some (.seImm x nn) ∧ ∃ t, exec (.seImm x nn) s = .next t ∧
      t.pc = (if s.reg x = nn then s.pc + 4 else s.pc + 2) ∧ FrameHolds onlyPc s t) ∧
    (decodeWord (wordXI 0x4 x nn.toNat) = some (.sneImm x nn) ∧ ∃ t, exec (.sneImm x nn) s = .next t ∧
      t.pc = (if s.reg x ≠ nn then s.pc + 4 else s.pc + 2) ∧ FrameHolds onlyPc s t)

/-- `5xy0` SE Vx, Vy and `9xy0` SNE Vx, Vy; with a low nibble other than 0 both opcodes are illegal (41_control_flow.md
R115, R116; the illegal ones are 30_encoding.md R79 with the spec's decision D37, DEDUCED, log 35). -/
def Obligations.SkipsOnRegisters : Prop :=
  ∀ (x y : Reg) (s : State),
    (decodeWord (wordXY 0x5 x y 0) = some (.seReg x y) ∧ ∃ t, exec (.seReg x y) s = .next t ∧
      t.pc = (if s.reg x = s.reg y then s.pc + 4 else s.pc + 2) ∧ FrameHolds onlyPc s t) ∧
    (decodeWord (wordXY 0x9 x y 0) = some (.sneReg x y) ∧ ∃ t, exec (.sneReg x y) s = .next t ∧
      t.pc = (if s.reg x ≠ s.reg y then s.pc + 4 else s.pc + 2) ∧ FrameHolds onlyPc s t) ∧
    (∀ n, 0 < n → n ≤ 15 → decodeWord (wordXY 0x5 x y n) = none ∧ decodeWord (wordXY 0x9 x y n) = none)

/-! ### Registers and arithmetic -/

/-- `6xnn` LD Vx, nn and `7xnn` ADD Vx, nn: the sum wraps modulo 256 and writes no flag; `VF` changes only as the
destination (42_alu.md R130, R131). -/
def Obligations.ImmediateLoadAndAdd : Prop :=
  ∀ (x : Reg) (nn : Byte) (s : State),
    (decodeWord (wordXI 0x6 x nn.toNat) = some (.ldImm x nn) ∧ ∃ t, exec (.ldImm x nn) s = .next t ∧
      t.reg x = nn ∧ t.pc = s.pc + 2 ∧ FrameHolds (onlyReg x) s t) ∧
    (decodeWord (wordXI 0x7 x nn.toNat) = some (.addImm x nn) ∧ ∃ t, exec (.addImm x nn) s = .next t ∧
      (t.reg x).toNat = ((s.reg x).toNat + nn.toNat) % 256 ∧ t.pc = s.pc + 2 ∧ FrameHolds (onlyReg x) s t)

/-- `8xy0` LD, `8xy1` OR, `8xy2` AND, `8xy3` XOR, bit by bit; none writes `VF` except as the destination (42_alu.md R132 to
R135; that `VF` is unchanged is the spec's decision D8, log 17). -/
def Obligations.CopyAndLogic : Prop :=
  ∀ (x y : Reg) (s : State),
    (decodeWord (wordXY 0x8 x y 0x0) = some (.ldReg x y) ∧ ∃ t, exec (.ldReg x y) s = .next t ∧
      t.reg x = s.reg y ∧ t.pc = s.pc + 2 ∧ FrameHolds (onlyReg x) s t) ∧
    (decodeWord (wordXY 0x8 x y 0x1) = some (.orReg x y) ∧ ∃ t, exec (.orReg x y) s = .next t ∧
      (∀ k < 8, (t.reg x).getLsbD k = ((s.reg x).getLsbD k || (s.reg y).getLsbD k)) ∧
      t.pc = s.pc + 2 ∧ FrameHolds (onlyReg x) s t) ∧
    (decodeWord (wordXY 0x8 x y 0x2) = some (.andReg x y) ∧ ∃ t, exec (.andReg x y) s = .next t ∧
      (∀ k < 8, (t.reg x).getLsbD k = ((s.reg x).getLsbD k && (s.reg y).getLsbD k)) ∧
      t.pc = s.pc + 2 ∧ FrameHolds (onlyReg x) s t) ∧
    (decodeWord (wordXY 0x8 x y 0x3) = some (.xorReg x y) ∧ ∃ t, exec (.xorReg x y) s = .next t ∧
      (∀ k < 8, (t.reg x).getLsbD k = ((s.reg x).getLsbD k ^^ (s.reg y).getLsbD k)) ∧
      t.pc = s.pc + 2 ∧ FrameHolds (onlyReg x) s t)

/-- `8xy4` ADD: the sum modulo 256, then the carry in `VF`, which is what `VF` holds when it is the destination too
(42_alu.md R136; the order of result and flag is 40_execution_cycle.md R101, the spec's decision D7, log 17). -/
def Obligations.AddSetsCarry : Prop :=
  ∀ (x y : Reg) (s : State),
    decodeWord (wordXY 0x8 x y 0x4) = some (.addReg x y) ∧ ∃ t, exec (.addReg x y) s = .next t ∧
      (x ≠ vF → (t.reg x).toNat = ((s.reg x).toNat + (s.reg y).toNat) % 256) ∧
      t.reg vF = (if 255 < (s.reg x).toNat + (s.reg y).toNat then 1 else 0) ∧
      t.pc = s.pc + 2 ∧ FrameHolds (onlyRegAndFlag x) s t

/-- `8xy5` SUB: the difference floored at 0, then `VF` 1 exactly when `Vx >= Vy`, also when `VF` is the destination
(42_alu.md R137; the order of result and flag is 40_execution_cycle.md R101, the spec's decision D7, log 17). -/
def Obligations.SubFloorsAtZero : Prop :=
  ∀ (x y : Reg) (s : State),
    decodeWord (wordXY 0x8 x y 0x5) = some (.subReg x y) ∧ ∃ t, exec (.subReg x y) s = .next t ∧
      (x ≠ vF → (t.reg x).toNat = (s.reg x).toNat - (s.reg y).toNat) ∧
      t.reg vF = (if (s.reg y).toNat ≤ (s.reg x).toNat then 1 else 0) ∧
      t.pc = s.pc + 2 ∧ FrameHolds (onlyRegAndFlag x) s t

/-- `8xy7` SUBN: `Vy - Vx` modulo 256, then `VF` 1 exactly when `Vy >= Vx`, also when `VF` is the destination (42_alu.md
R139; that it wraps is the spec's decision D6, log 16; the order of result and flag is 40_execution_cycle.md R101, decision
D7, log 17). -/
def Obligations.SubnWraps : Prop :=
  ∀ (x y : Reg) (s : State),
    decodeWord (wordXY 0x8 x y 0x7) = some (.subnReg x y) ∧ ∃ t, exec (.subnReg x y) s = .next t ∧
      (x ≠ vF → (t.reg x).toNat = (256 + (s.reg y).toNat - (s.reg x).toNat) % 256) ∧
      t.reg vF = (if (s.reg x).toNat ≤ (s.reg y).toNat then 1 else 0) ∧
      t.pc = s.pc + 2 ∧ FrameHolds (onlyRegAndFlag x) s t

/-- `8xy6` SHR and `8xyE` SHL by one, of `Vx` or, with `SHIFT_SOURCE = y`, of `Vy`; `VF` is the bit shifted out, also when
it is the destination (42_alu.md R138, R140; the parameter is the spec's decision D5, log 10; the order of result and flag
is 40_execution_cycle.md R101, decision D7, log 17). -/
def Obligations.ShiftsByOne : Prop :=
  ∀ (x y : Reg) (s : State) (a : Byte), a = (if s.params.shiftSource = .x then s.reg x else s.reg y) →
    (decodeWord (wordXY 0x8 x y 0x6) = some (.shrReg x y) ∧ ∃ t, exec (.shrReg x y) s = .next t ∧
      (x ≠ vF → (t.reg x).toNat = a.toNat / 2) ∧ (t.reg vF).toNat = a.toNat % 2 ∧
      t.pc = s.pc + 2 ∧ FrameHolds (onlyRegAndFlag x) s t) ∧
    (decodeWord (wordXY 0x8 x y 0xE) = some (.shlReg x y) ∧ ∃ t, exec (.shlReg x y) s = .next t ∧
      (x ≠ vF → (t.reg x).toNat = 2 * a.toNat % 256) ∧ (t.reg vF).toNat = a.toNat / 128 ∧
      t.pc = s.pc + 2 ∧ FrameHolds (onlyRegAndFlag x) s t)

/-- `Cxnn` RND: the next draw of the random source, whatever it is, masked by `nn`; a bit that is 0 in `nn` is 0 in the
result; one draw is used up (42_alu.md R141; that a draw is any byte is the spec's decision D34, log 5). -/
def Obligations.RandomByteIsMasked : Prop :=
  ∀ (x : Reg) (nn : Byte) (s : State),
    decodeWord (wordXI 0xC x nn.toNat) = some (.rnd x nn) ∧ ∃ t, exec (.rnd x nn) s = .next t ∧
      (∀ k < 8, (t.reg x).getLsbD k = ((Config.drawByte s.rng).getLsbD k && nn.getLsbD k)) ∧
      t.reg x &&& ~~~nn = 0 ∧ t.rng = s.rng + 1 ∧ t.pc = s.pc + 2 ∧
      FrameHolds (onlyRegAndRng x) s t

/-- After each of the six flag writers completes `VF` holds 0 or 1, and no other instruction changes `VF` unless an operand
names it as a destination (10_state.md R22; that the flag stays when `VF` is the destination is 40_execution_cycle.md R101
with the spec's decision D7, and that `8xy1` to `8xy3` leave `VF` is decision D8, log 17; the draw's clauses rest on D16,
log 22, and `Fx1E` writing no flag on D11, log 20). -/
def Obligations.OnlyFlagWritersWriteTheFlag : Prop :=
  ∀ (i : Instr) (s t : State), exec i s = .next t → s.faultLatch = none → t.faultLatch = none →
    match i with
    | .addReg _ _ | .subReg _ _ | .shrReg _ _ | .subnReg _ _ | .shlReg _ _ | .drw _ _ _ => t.reg vF = 0 ∨ t.reg vF = 1
    | .ldImm x _ | .addImm x _ | .rnd x _ | .ldReg x _ | .orReg x _ | .andReg x _ | .xorReg x _
    | .ldFromDt x | .ldKey x | .loadRegs x => x ≠ vF → t.reg vF = s.reg vF
    | _ => t.reg vF = s.reg vF

/-! ### The index register and memory -/

/-- `Annn` LD I, nnn and `Fx29` LD F, Vx: `I` is the address, or the glyph's address `0x050 + 5 * Vx` with no masking of
`Vx` (43_index_memory.md R160, R162). -/
def Obligations.IndexLoads : Prop :=
  (∀ (nnn : Word) (s : State), Word.isAddr12 nnn →
    decodeWord (wordA 0xA nnn) = some (.ldI nnn) ∧ ∃ t, exec (.ldI nnn) s = .next t ∧ t.i = nnn ∧ t.pc = s.pc + 2 ∧
      FrameHolds { i := true } s t) ∧
  (∀ (x : Reg) (s : State),
    decodeWord (wordXI 0xF x 0x29) = some (.ldFont x) ∧ ∃ t, exec (.ldFont x) s = .next t ∧
      t.i.toNat = 0x050 + 5 * (s.reg x).toNat ∧ t.pc = s.pc + 2 ∧ FrameHolds { i := true } s t)

/-- `Fx1E` ADD I, Vx: the sum modulo 65536, past 0xFFF without wrapping there, and no flag (43_index_memory.md R161; the
spec's decision D11, log 20). -/
def Obligations.IndexAddWrapsAt65536 : Prop :=
  ∀ (x : Reg) (s : State),
    decodeWord (wordXI 0xF x 0x1E) = some (.addI x) ∧ ∃ t, exec (.addI x) s = .next t ∧
      t.i.toNat = (s.i.toNat + (s.reg x).toNat) % 65536 ∧ t.pc = s.pc + 2 ∧ FrameHolds { i := true } s t

/-- `Fx33` LD B, Vx: hundreds, tens and ones at `I`, `I + 1`, `I + 2`, and no other byte; when they do not all lie in memory
AddressOutOfRange with the first address above 0xFFF and nothing written (43_index_memory.md R163, 20_memory.md R56; the
digit order is the spec's decision D10, log 19; the fault D12, log 21, and its stopped run state 60_exceptions.md R236 with
D21, log 24). -/
def Obligations.BcdStoresThreeDigits : Prop :=
  ∀ (x : Reg) (s : State),
    decodeWord (wordXI 0xF x 0x33) = some (.ldBcd x) ∧
    (s.i.toNat + 2 ≤ 0x0FFF → ∃ t, exec (.ldBcd x) s = .next t ∧
      (t.readByte s.i.toNat).toNat = (s.reg x).toNat / 100 ∧
      (t.readByte (s.i.toNat + 1)).toNat = (s.reg x).toNat / 10 % 10 ∧
      (t.readByte (s.i.toNat + 2)).toNat = (s.reg x).toNat % 10 ∧
      t.pc = s.pc + 2 ∧ FrameHolds (onlyBytes s.i.toNat 3) s t) ∧
    (0x0FFF < s.i.toNat + 2 → ∃ t a, exec (.ldBcd x) s = .next t ∧ FaultTaken .addressOutOfRange a s t ∧
      a.toNat = max s.i.toNat 0x1000)

/-- `Fx55` LD [I], Vx: `V0` to `Vx` at `I` on, in order, and no other byte; `I` is not changed; when they do not all lie in
memory AddressOutOfRange and nothing written (43_index_memory.md R164, 20_memory.md R56; the spec's decisions D9, log 18,
and D12, log 21; the stopped run state is 60_exceptions.md R236 with D21, log 24). -/
def Obligations.StoreRegistersToMemory : Prop :=
  ∀ (x : Reg) (s : State),
    decodeWord (wordXI 0xF x 0x55) = some (.storeRegs x) ∧
    (s.i.toNat + x.val ≤ 0x0FFF → ∃ t, exec (.storeRegs x) s = .next t ∧
      (∀ r : Reg, r ≤ x → t.readByte (s.i.toNat + r.val) = s.reg r) ∧
      t.pc = s.pc + 2 ∧ FrameHolds (onlyBytes s.i.toNat (x.val + 1)) s t) ∧
    (0x0FFF < s.i.toNat + x.val → ∃ t a, exec (.storeRegs x) s = .next t ∧ FaultTaken .addressOutOfRange a s t ∧
      a.toNat = max s.i.toNat 0x1000)

/-- `Fx65` LD Vx, [I]: `V0` to `Vx` from the bytes at `I` on, the higher registers and `I` unchanged; when the bytes do not
all lie in memory AddressOutOfRange and no register written (43_index_memory.md R165, 20_memory.md R56; the spec's
decisions D9, log 18, and D12, log 21; the stopped run state is 60_exceptions.md R236 with D21, log 24). -/
def Obligations.LoadRegistersFromMemory : Prop :=
  ∀ (x : Reg) (s : State),
    decodeWord (wordXI 0xF x 0x65) = some (.loadRegs x) ∧
    (s.i.toNat + x.val ≤ 0x0FFF → ∃ t, exec (.loadRegs x) s = .next t ∧
      (∀ r : Reg, r ≤ x → t.reg r = s.readByte (s.i.toNat + r.val)) ∧
      t.pc = s.pc + 2 ∧ FrameHolds (onlyRegsUpTo x) s t) ∧
    (0x0FFF < s.i.toNat + x.val → ∃ t a, exec (.loadRegs x) s = .next t ∧ FaultTaken .addressOutOfRange a s t ∧
      a.toNat = max s.i.toNat 0x1000)

/-- The source's round trip: `Fx55` and then `Fx65` with the same `x`, whatever the registers hold in between, restore
`V0` to `Vx` (43_index_memory.md R165; that `I` is unchanged is the spec's decision D9, log 18). -/
def Obligations.StoreThenLoadRestoresRegisters : Prop :=
  ∀ (x : Reg) (s t : State) (v : Vector Byte 16), s.i.toNat + x.val ≤ 0x0FFF → exec (.storeRegs x) s = .next t →
    ∃ u, exec (.loadRegs x) { t with v := v } = .next u ∧ ∀ r : Reg, r ≤ x → u.reg r = s.reg r

/-- A store is seen by the very next fetch: after `Fx55` or `Fx33` the opcode fetched at `pc + 2` is made of the stored bytes
where the stored range covers it and of the old bytes where it does not, for every place and length of the range
(20_memory.md R63, 43_index_memory.md R163, R164). That no cache lies between is the spec's decision D31 (log 36), the
order of the fetched bytes is R53, DEDUCED (log 32), the digit order D10 (log 19). -/
def Obligations.StoredCodeIsFetchedNext : Prop :=
  ∀ (x : Reg) (s : State), s.pc.toNat + 3 ≤ 0x0FFF →
    (s.i.toNat + x.val ≤ 0x0FFF → ∃ t, exec (.storeRegs x) s = .next t ∧ t.pc.toNat = s.pc.toNat + 2 ∧
      t.fetch.toNat = 256 * (byteAfterStore s s.v.toList (x.val + 1) (s.pc.toNat + 2)).toNat +
        (byteAfterStore s s.v.toList (x.val + 1) (s.pc.toNat + 3)).toNat) ∧
    (s.i.toNat + 2 ≤ 0x0FFF → ∃ t, exec (.ldBcd x) s = .next t ∧ t.pc.toNat = s.pc.toNat + 2 ∧
      t.fetch.toNat = 256 * (byteAfterStore s (decimalDigits (s.reg x).toNat) 3 (s.pc.toNat + 2)).toNat +
        (byteAfterStore s (decimalDigits (s.reg x).toNat) 3 (s.pc.toNat + 3)).toNat)

/-- Each piece of state has its writers among the instructions, and no other instruction changes it: the general registers
(10_state.md R21), `I` (R23), the stack (R27), `DT` and `ST` (R28), the display (R30), the random source (R32), memory
(20_memory.md R50). The keypad mask (10_state.md R29), the frame queue (R33), `bc` (R34), the tick latch (R38), the
parameters (R39) and the model's own fields no instruction changes, and the run state and the fault latch (R35, R36) only
one that raises a fault; `pc` any instruction may write. That `Fx55` and `Fx65` leave `I` is the spec's decision D9 (log
18), that `8xy1` to `8xy3` and `Fx1E` leave `VF` D8 (log 17) and D11 (log 20), that a raise stops the run D21 (log 24). -/
def Obligations.EachStateHasItsWriters : Prop :=
  ∀ (i : Instr) (s t : State), exec i s = .next t →
    (t.i ≠ s.i → (∃ nnn, i = .ldI nnn) ∨ (∃ x, i = .addI x) ∨ (∃ x, i = .ldFont x)) ∧
    (t.stack ≠ s.stack → i = .ret ∨ ∃ nnn, i = .call nnn) ∧
    (t.dt ≠ s.dt → ∃ x, i = .ldToDt x) ∧
    (t.st ≠ s.st → ∃ x, i = .ldToSt x) ∧
    (t.display ≠ s.display → i = .cls ∨ ∃ x y n, i = .drw x y n) ∧
    (t.rng ≠ s.rng → ∃ x nn, i = .rnd x nn) ∧
    ((∃ a, t.readByte a ≠ s.readByte a) → (∃ x, i = .ldBcd x) ∨ (∃ x, i = .storeRegs x)) ∧
    (∀ r, t.reg r ≠ s.reg r → match i with
      | .ldImm x _ | .addImm x _ | .rnd x _ | .ldReg x _ | .orReg x _ | .andReg x _ | .xorReg x _ | .ldFromDt x
      | .ldKey x => r = x
      | .addReg x _ | .subReg x _ | .shrReg x _ | .subnReg x _ | .shlReg x _ => r = x ∨ r = vF
      | .drw _ _ _ => r = vF
      | .loadRegs x => r ≤ x
      | _ => False) ∧
    t.keys = s.keys ∧ t.frames = s.frames ∧ t.bc = s.bc ∧ t.tickLatch = s.tickLatch ∧ t.params = s.params ∧
    t.schedule = s.schedule ∧ t.reply = s.reply ∧ t.stopPending = s.stopPending ∧
    ((t.runState = s.runState ∧ t.faultLatch = s.faultLatch) ∨ ∃ code info, FaultTaken code info s t)

/-! ### The display and the frames -/

/-- `00E0` CLS: every cell unlit, nothing else changed but `pc` (44_display_frame.md R180). -/
def Obligations.ClearTurnsEveryCellOff : Prop :=
  decodeWord 0x00E0 = some .cls ∧ ∀ s : State, ∃ t, exec .cls s = .next t ∧ (∀ px py, t.cell px py = false) ∧
    t.pc = s.pc + 2 ∧ FrameHolds { display := true } s t

/-- `Dxyn` DRW: the loop over rows and bits is the pixelwise exclusive or of the display with the clipped sprite, and `VF` is
1 exactly when some lit cell lies under a set sprite bit. The coordinates are the old registers, even where one is `VF`.
With `n > 0` bytes that do not all lie in memory AddressOutOfRange and nothing drawn (44_display_frame.md R181,
20_memory.md R56; bit and row order, clipping on both axes and `n = 0` are the spec's decisions D14, D15, D16, log 22; the
fault D12, log 21, and its stopped run state 60_exceptions.md R236 with D21, log 24; the old coordinates in `VF`
40_execution_cycle.md R100 with D7, log 17). -/
def Obligations.DrawXorsTheClippedSprite : Prop :=
  ∀ (x y : Reg) (n : Nat) (s : State), n ≤ 15 →
    decodeWord (wordXY 0xD x y n) = some (.drw x y n) ∧
    ((n = 0 ∨ s.i.toNat + n - 1 ≤ 0x0FFF) → ∃ t, exec (.drw x y n) s = .next t ∧
      (∀ px py, px < 64 → py < 32 → t.cell px py = (s.cell px py ^^ spriteBit s x y n px py)) ∧
      ((∃ px py, px < 64 ∧ py < 32 ∧ s.cell px py = true ∧ spriteBit s x y n px py = true) → t.reg vF = 1) ∧
      ((∀ px py, px < 64 → py < 32 → s.cell px py = true → spriteBit s x y n px py = false) → t.reg vF = 0) ∧
      t.pc = s.pc + 2 ∧ FrameHolds onlyFlagAndDisplay s t) ∧
    ((0 < n ∧ 0x0FFF < s.i.toNat + n - 1) → ∃ t a, exec (.drw x y n) s = .next t ∧
      FaultTaken .addressOutOfRange a s t ∧ a.toNat = max s.i.toNat 0x1000)

/-- Drawing the same sprite twice restores the display. With a coordinate in `VF` the second draw goes elsewhere, since the
first writes `VF`; the property is about the others (44_display_frame.md R181; the spec's decisions D15, log 22, and, where
the sprite does not lie in memory, D12, log 21). -/
def Obligations.DrawingTwiceRestoresTheDisplay : Prop :=
  ∀ (x y : Reg) (n : Nat) (s t u : State), x ≠ vF → y ≠ vF →
    exec (.drw x y n) s = .next t → exec (.drw x y n) t = .next u → u.display = s.display

/-- A rendered frame is the display, pixel by pixel, in row-major order and two colours (44_display_frame.md R185, R186;
the layout is the spec's decision D27, log 9). -/
def Obligations.FrameShowsTheDisplay : Prop :=
  ∀ s : State, ∀ px py, px < 64 → py < 32 →
    (renderFrame s.params s.display).pixels[py * 64 + px]? =
      some (if s.cell px py then s.params.litColour else s.params.unlitColour)

/-- `Enqueue` appends the new frame and drops the oldest ones above the cap; after it a consume returns exactly that frame,
empties the queue and changes nothing else, and a second consume returns `none` (44_display_frame.md R188 to R190; the
spec's decision D28, log 26). That what a consume returns is kept in `reply` is the model's choice (log 29), as is that a
cap is at least 1 (log 14). -/
def Obligations.QueueDropsOldestAndConsumesNewest : Prop :=
  (∀ (cap : Nat) (q : List Frame) (f : Frame), ∃ old, q ++ [f] = old ++ enqueue cap q f ∧
    (enqueue cap q f).length = min (q.length + 1) cap) ∧
  (∀ (s : State) (rest : List Move), s.schedule = .host .consumeFrame :: rest →
    (s.frames = [] → step s = .next { s with schedule := rest, reply := some (.frame none) }) ∧
    (∀ q f, s.frames = q ++ [f] →
      step s = .next { s with frames := [], schedule := rest, reply := some (.frame (some f)) })) ∧
  (∀ (cap : Nat) (q : List Frame) (f : Frame), 1 ≤ cap → ∃ q', enqueue cap q f = q' ++ [f])

/-! ### The keypad -/

/-- `Ex9E` SKP and `ExA1` SKNP: a key code above 15 is never down (45_keypad.md R200, R201; the spec's decision D17,
log 23). -/
def Obligations.SkipsOnKeys : Prop :=
  ∀ (x : Reg) (s : State),
    (decodeWord (wordXI 0xE x 0x9E) = some (.skp x) ∧ ∃ t, exec (.skp x) s = .next t ∧
      t.pc = (if KeyIsDown s (s.reg x).toNat then s.pc + 4 else s.pc + 2) ∧ FrameHolds onlyPc s t) ∧
    (decodeWord (wordXI 0xE x 0xA1) = some (.sknp x) ∧ ∃ t, exec (.sknp x) s = .next t ∧
      t.pc = (if KeyIsDown s (s.reg x).toNat then s.pc + 2 else s.pc + 4) ∧ FrameHolds onlyPc s t)

/-- `Fx0A` LD Vx, K: while no key is down nothing at all changes, `pc` included; else the least key down is stored
(45_keypad.md R202; that it is the least is the spec's decision D18, log 23). -/
def Obligations.KeyWaitRetriesOrStoresLeastKey : Prop :=
  ∀ (x : Reg) (s : State),
    decodeWord (wordXI 0xF x 0x0A) = some (.ldKey x) ∧
    (s.keys = 0 → exec (.ldKey x) s = .next s) ∧
    (s.keys ≠ 0 → ∃ t k, exec (.ldKey x) s = .next t ∧ KeyIsDown s k ∧ (∀ j < k, ¬ KeyIsDown s j) ∧
      (t.reg x).toNat = k ∧ t.pc = s.pc + 2 ∧ FrameHolds (onlyReg x) s t)

/-- `Press`, `Release` and `Pressed`, in every run state: one bit of the mask is set, cleared or reported; a key code above
15 changes nothing and is not pressed (45_keypad.md R203 to R205; the codes above 15 are the spec's decision D19, log 23;
that the answer is kept in `reply` is the model's choice, log 29). -/
def Obligations.KeyEventsUpdateOneBit : Prop :=
  ∀ (s : State) (k : Nat) (rest : List Move),
    (s.schedule = .host (.press k) :: rest → ∃ m : BitVec 16,
      step s = .next { s with keys := m, schedule := rest, reply := some .done } ∧
      ∀ j < 16, m.getLsbD j = (s.keys.getLsbD j || decide (j = k))) ∧
    (s.schedule = .host (.release k) :: rest → ∃ m : BitVec 16,
      step s = .next { s with keys := m, schedule := rest, reply := some .done } ∧
      ∀ j < 16, m.getLsbD j = (s.keys.getLsbD j && !decide (j = k))) ∧
    (s.schedule = .host (.pressed k) :: rest →
      step s = .next { s with schedule := rest, reply := some (.pressed (decide (KeyIsDown s k))) })

/-- Only the Host's key events change `K`, and they are taken at any time, whatever the run state and the fault latch
(45_keypad.md R206). -/
def Obligations.OnlyKeyEventsChangeTheMask : Prop :=
  (∀ s t : State, step s = .next t → t.keys ≠ s.keys →
    ∃ k rest, s.schedule = .host (.press k) :: rest ∨ s.schedule = .host (.release k) :: rest) ∧
  (∀ (s : State) (k : Nat) (rest : List Move),
    (s.schedule = .host (.press k) :: rest ∨ s.schedule = .host (.release k) :: rest) → ∃ t, step s = .next t)

/-- No instruction but `Ex9E`, `ExA1` and `Fx0A` can tell one keypad mask from another: with any other mask it does the
same (10_state.md R29). It compares two executions, and for `Cxnn` it takes the same draw in both, which is the model's
choice and not the spec's, whose draws follow no law (decision D34, log 5). -/
def Obligations.OnlyKeyInstructionsReadTheMask : Prop :=
  ∀ (i : Instr) (s : State) (m : BitVec 16),
    (∀ x, i ≠ .skp x) → (∀ x, i ≠ .sknp x) → (∀ x, i ≠ .ldKey x) →
    ∃ t, exec i s = .next t ∧ exec i { s with keys := m } = .next { t with keys := m }

/-! ### The timers -/

/-- `Fx07` LD Vx, DT, `Fx15` LD DT, Vx and `Fx18` LD ST, Vx (46_timers.md R215 to R217; that `sound_active` is 1 exactly while
`ST` is not 0 is R221 with the spec's decision D35, log 38). -/
def Obligations.TimerReadsAndWrites : Prop :=
  ∀ (x : Reg) (s : State),
    (decodeWord (wordXI 0xF x 0x07) = some (.ldFromDt x) ∧ ∃ t, exec (.ldFromDt x) s = .next t ∧
      t.reg x = s.dt ∧ t.pc = s.pc + 2 ∧ FrameHolds (onlyReg x) s t) ∧
    (decodeWord (wordXI 0xF x 0x15) = some (.ldToDt x) ∧ ∃ t, exec (.ldToDt x) s = .next t ∧
      t.dt = s.reg x ∧ t.pc = s.pc + 2 ∧ FrameHolds { dt := true } s t) ∧
    (decodeWord (wordXI 0xF x 0x18) = some (.ldToSt x) ∧ ∃ t, exec (.ldToSt x) s = .next t ∧
      t.st = s.reg x ∧ t.soundActive = decide (s.reg x ≠ 0) ∧ t.pc = s.pc + 2 ∧ FrameHolds { st := true } s t)

/-- With atomic ticks one tick, enabled exactly while the machine runs, decrements both timers in parallel, each saturating
at zero, and changes nothing else; with `TIMER_TICK_ATOMIC = false` there is no such step (46_timers.md R218, R219; the
spec's decisions D25 and D45, log 12). That a tick that is not enabled is refused is the model's choice (log 8). -/
def Obligations.AtomicTickDecrementsBothTimers : Prop :=
  ∀ (s : State) (rest : List Move), s.schedule = .timerTick :: rest →
    (s.params.tickAtomic = true → s.runState = .running → ∃ d e : Byte,
      step s = .next { s with dt := d, st := e, schedule := rest } ∧
      d.toNat = s.dt.toNat - 1 ∧ e.toNat = s.st.toNat - 1) ∧
    ((s.params.tickAtomic = false ∨ s.runState ≠ .running) → step s = .refused .timerTickNotEnabled)

/-- With ticks in two steps: the read, enabled exactly while the machine runs, no tick is in flight and ticks are not
atomic, latches both bytes; the write, enabled whenever a tick is in flight (after Stop or a fault too), writes back both
decremented bytes and frees the latch, and nothing else changes unless a Stop waits for it (46_timers.md R218, R219, R222;
the spec's decisions D25, D45, log 12). That a step that is not enabled is refused is the model's choice (log 8). The last
clause, that the write-back of a tick which a Stop waits for also clears `stopPending` and puts Stop's `done` into `reply`,
is the model's choice (log 41, log 29), its form of 60_exceptions.md R245. -/
def Obligations.TwoStepTickLatchesThenWritesBack : Prop :=
  ∀ (s : State) (rest : List Move),
    (s.schedule = .tickRead :: rest → s.params.tickAtomic = false → s.runState = .running → s.tickLatch = .idle →
      step s = .next { s with tickLatch := .latched s.dt s.st, schedule := rest }) ∧
    (s.schedule = .tickRead :: rest →
      (s.params.tickAtomic = true ∨ s.runState ≠ .running ∨ s.tickLatch ≠ .idle) →
      step s = .refused .tickReadNotEnabled) ∧
    (s.schedule = .tickWrite :: rest → s.tickLatch = .idle → step s = .refused .tickWriteNotEnabled) ∧
    (∀ d0 e0, s.schedule = .tickWrite :: rest → s.tickLatch = .latched d0 e0 → ∃ d e : Byte,
      d.toNat = d0.toNat - 1 ∧ e.toNat = e0.toNat - 1 ∧
      (s.stopPending = false →
        step s = .next { s with dt := d, st := e, tickLatch := .idle, schedule := rest }) ∧
      (s.stopPending = true →
        step s = .next { s with
          dt := d, st := e, tickLatch := .idle, schedule := rest, reply := some .done, stopPending := false }))

/-- The lost update the source allows: a tick that has read, then `Fx15`, then the tick's write-back, leaves the decrement
of the old timer, not the written value (46_timers.md R219; the spec's decision D25, log 12). -/
def Obligations.TickInFlightOverwritesTimerWrite : Prop :=
  ∀ (x : Reg) (s : State), s.params.tickAtomic = false → s.runState = .running → s.tickLatch = .idle →
    ∃ a b c, moveStep .tickRead s = .next a ∧ exec (.ldToDt x) a = .next b ∧ b.dt = s.reg x ∧
      moveStep .tickWrite b = .next c ∧ c.dt.toNat = s.dt.toNat - 1 ∧ c.st.toNat = s.st.toNat - 1

/-! ### The Host -/

/-- `Run` from idle or stopped starts the machine, clears the fault latch and the batch counter and changes nothing else;
while running it changes nothing. `Stop` stops a running machine and changes nothing else; otherwise it changes nothing
and returns `NotRunning`. With a tick in flight Stop does not return yet (60_exceptions.md R244 to R246; the spec's
decisions D21, D24, D44, log 24 and log 28). That the answer is kept in `reply` is the model's choice (log 29), as is the
field that holds a Stop which has not returned (log 41). -/
def Obligations.RunAndStop : Prop :=
  ∀ (s : State) (rest : List Move),
    (s.schedule = .host .run :: rest → s.runState ≠ .running →
      step s = .next { s with
        runState := .running, faultLatch := none, bc := 0, schedule := rest, reply := some .done }) ∧
    (s.schedule = .host .run :: rest → s.runState = .running →
      step s = .next { s with schedule := rest, reply := some .done }) ∧
    (s.schedule = .host .stop :: rest → s.runState = .running → s.tickLatch = .idle →
      step s = .next { s with runState := .stopped, schedule := rest, reply := some .done }) ∧
    (s.schedule = .host .stop :: rest → s.runState = .running → s.tickLatch ≠ .idle →
      step s = .next { s with runState := .stopped, schedule := rest, stopPending := true }) ∧
    (s.schedule = .host .stop :: rest → s.runState ≠ .running →
      step s = .next { s with schedule := rest, reply := some .notRunning })

/-- A ROM of at most 3584 bytes is copied to 0x200 on, every other byte and everything else unchanged; a longer one is
refused with `RomTooLarge`, memory and the fault latch unchanged (70_reset_and_hazards.md R265). That nothing but memory
changes is rule R263 with the spec's decision D30 (log 27); that the answer is kept in `reply` is the model's choice (log
29). -/
def Obligations.LoadCopiesRomOrRefuses : Prop :=
  ∀ (s : State) (rom : List Byte) (rest : List Move), s.schedule = .host (.loadBuffer rom) :: rest →
    s.runState ≠ .running →
    (rom.length ≤ 3584 → ∃ t, step s = .next t ∧
      t = { s with mem := t.mem, schedule := rest, reply := some .done } ∧
      ∀ a, t.readByte a = if 0x200 ≤ a ∧ a < 0x200 + rom.length then rom.getD (a - 0x200) 0 else s.readByte a) ∧
    (3584 < rom.length → step s = .next { s with schedule := rest, reply := some .romTooLarge })

/-- `LoadFile` is the load of the file's bytes, an I/O error is passed on unchanged and changes nothing, and no load, of a
buffer or a file, read or not, is taken while the machine runs (70_reset_and_hazards.md R264, 60_exceptions.md R248, R249;
the spec's decision D30, log 27 and log 30). That the answer is kept in `reply` (log 29) and that a load while running is
refused (log 8) are the model's choices. -/
def Obligations.LoadFileAndLoadWhileRunning : Prop :=
  ∀ (s : State) (rest : List Move),
    (∀ rom, s.schedule = .host (.loadFile (.bytes rom)) :: rest →
      step s = step { s with schedule := .host (.loadBuffer rom) :: rest }) ∧
    (∀ code, s.schedule = .host (.loadFile (.ioError code)) :: rest → s.runState ≠ .running →
      step s = .next { s with schedule := rest, reply := some (.ioError code) }) ∧
    (∀ load, (∃ rom, load = .loadBuffer rom) ∨ (∃ file, load = .loadFile file) → s.schedule = .host load :: rest →
      s.runState = .running → step s = .refused .loadWhileRunning)

/-- A Host step is taken in every state, but a load only while the machine does not run, and the Host writes only what its
operations are for: whatever it does, the registers, `I`, `pc`, the stack, the display, the timers, the tick latch and the
random source are untouched, and only Run changes the fault latch (60_exceptions.md R243, R248 to R250; the spec's decision
D30, log 27). Reading the fault latch returns it; that it is kept in `reply` is the model's choice (log 29). -/
def Obligations.HostWritesOnlyItsOwn : Prop :=
  (∀ (s : State) (op : HostOp) (rest : List Move), s.schedule = .host op :: rest →
    (s.runState ≠ .running ∨ ((∀ rom, op ≠ .loadBuffer rom) ∧ ∀ file, op ≠ .loadFile file)) → ∃ t, step s = .next t) ∧
  (∀ (s t : State) (op : HostOp) (rest : List Move), s.schedule = .host op :: rest → step s = .next t →
    (∀ r, t.reg r = s.reg r) ∧ t.i = s.i ∧ t.pc = s.pc ∧ t.stack = s.stack ∧ t.display = s.display ∧ t.dt = s.dt ∧
    t.st = s.st ∧ t.tickLatch = s.tickLatch ∧ t.rng = s.rng ∧ (op ≠ .run → t.faultLatch = s.faultLatch) ∧
    (∀ a, a < 0x200 → t.readByte a = s.readByte a)) ∧
  (∀ (s : State) (rest : List Move), s.schedule = .host .readFault :: rest →
    step s = .next { s with schedule := rest, reply := some (.fault s.faultLatch) })

/-- A tick in flight completes before Stop returns: a Stop of a running machine with a tick in flight stops it, with no
frame and no answer yet, and neither an Engine step nor a new tick is enabled; whatever step any agent takes then, another
Run or a load among them, the Stop still waits and the tick is still in flight, unless the step is the tick's write-back:
that writes both decremented bytes, and with it Stop returns `done` (60_exceptions.md R243, R245, 46_timers.md R219; the
spec's decisions D25 and D45, log 12, and D29, log 25). The field that holds the waiting Stop is the model's choice (log
41), as are that the Engine's move, where R90 gives it no step, answers the outcome `fault` engineNotEnabled (log 7), that a
tick not enabled is refused (log 8) and that the answer is kept in `reply` (log 29). -/
def Obligations.StopReturnsAfterTheTickInFlight : Prop :=
  (∀ (s : State) (d0 e0 : Byte), s.runState = .running → s.tickLatch = .latched d0 e0 → ∃ p,
    moveStep (.host .stop) s = .next p ∧ p = { s with runState := .stopped, stopPending := true } ∧
    moveStep .engine p = .fault .engineNotEnabled ∧
    moveStep .tickRead p = .refused .tickReadNotEnabled ∧ moveStep .timerTick p = .refused .timerTickNotEnabled) ∧
  (∀ (s t : State) (d0 e0 : Byte), s.stopPending = true → s.tickLatch = .latched d0 e0 → step s = .next t →
    (t.stopPending = true ∧ t.tickLatch = .latched d0 e0 ∧ ∀ rest, s.schedule ≠ .tickWrite :: rest) ∨
    ((∃ rest, s.schedule = .tickWrite :: rest) ∧ t.dt.toNat = d0.toNat - 1 ∧ t.st.toNat = e0.toNat - 1 ∧
      t.tickLatch = .idle ∧ t.runState = s.runState ∧ t.stopPending = false ∧ t.reply = some .done))
end

