-- ==== Sys2Proof/Laws/Encoding.lean ====
section
/-! SUPPORT. The fields of an opcode as numbers, and the fields of an encoded opcode: they are the operands it was encoded
from (30_encoding.md R72). -/

namespace Sys2Proof

/-! ### The fields of an opcode as quotients and remainders -/

theorem opFamily_eq (op : Word) : opFamily op = op.toNat / 4096 := by
  have := op.isLt
  simp [opFamily, Nat.shiftRight_eq_div_pow]
  omega

theorem opX_val (op : Word) : (opX op).val = op.toNat / 256 % 16 := by
  show (op.extractLsb' 8 4).toNat = _
  simp [Nat.shiftRight_eq_div_pow]

theorem opY_val (op : Word) : (opY op).val = op.toNat / 16 % 16 := by
  show (op.extractLsb' 4 4).toNat = _
  simp [Nat.shiftRight_eq_div_pow]

theorem opN_eq (op : Word) : opN op = op.toNat % 16 := by simp [opN]

theorem opNn_toNat (op : Word) : (opNn op).toNat = op.toNat % 256 := by simp [opNn]

theorem opNnn_toNat (op : Word) : (opNnn op).toNat = op.toNat % 4096 := by
  simp [opNnn]
  omega

/-! ### An encoded opcode as a number -/

theorem toNat_append {n m : Nat} (a : BitVec n) (b : BitVec m) : (a ++ b).toNat = a.toNat * 2 ^ m + b.toNat := by
  rw [BitVec.toNat_append, ← Nat.shiftLeft_add_eq_or_of_lt b.isLt, Nat.shiftLeft_eq]

@[simp] theorem regBits_toNat (x : Reg) : (regBits x).toNat = x.val := rfl

theorem encodeXI_toNat (f : BitVec 4) (x : Reg) (nn : Byte) :
    (encodeXI f x nn).toNat = f.toNat * 4096 + x.val * 256 + nn.toNat := by
  simp only [encodeXI, toNat_append, regBits_toNat]
  omega

theorem encodeXY_toNat (f : BitVec 4) (x y : Reg) (n : BitVec 4) :
    (encodeXY f x y n).toNat = f.toNat * 4096 + x.val * 256 + y.val * 16 + n.toNat := by
  simp only [encodeXY, toNat_append, regBits_toNat]
  omega

theorem encodeA_toNat (f : BitVec 4) (nnn : Word) : (encodeA f nnn).toNat = f.toNat * 4096 + nnn.toNat % 4096 := by
  show (f ++ nnn.extractLsb' 0 12).toNat = _
  rw [toNat_append]
  simp

/-! ### Format `XI` -/

@[simp] theorem opFamily_encodeXI (f : BitVec 4) (x : Reg) (nn : Byte) : opFamily (encodeXI f x nn) = f.toNat := by
  have := x.isLt; have := nn.isLt
  rw [opFamily_eq, encodeXI_toNat]; omega

@[simp] theorem opX_encodeXI (f : BitVec 4) (x : Reg) (nn : Byte) : opX (encodeXI f x nn) = x := by
  have := x.isLt; have := nn.isLt
  apply Fin.ext
  rw [opX_val, encodeXI_toNat]; omega

@[simp] theorem opNn_encodeXI (f : BitVec 4) (x : Reg) (nn : Byte) : opNn (encodeXI f x nn) = nn := by
  have := x.isLt; have := nn.isLt
  apply BitVec.eq_of_toNat_eq
  rw [opNn_toNat, encodeXI_toNat]; omega

/-! ### Formats `XY` and `XYN` -/

@[simp] theorem opFamily_encodeXY (f : BitVec 4) (x y : Reg) (n : BitVec 4) :
    opFamily (encodeXY f x y n) = f.toNat := by
  have := x.isLt; have := y.isLt; have := n.isLt
  rw [opFamily_eq, encodeXY_toNat]; omega

@[simp] theorem opX_encodeXY (f : BitVec 4) (x y : Reg) (n : BitVec 4) : opX (encodeXY f x y n) = x := by
  have := x.isLt; have := y.isLt; have := n.isLt
  apply Fin.ext
  rw [opX_val, encodeXY_toNat]; omega

@[simp] theorem opY_encodeXY (f : BitVec 4) (x y : Reg) (n : BitVec 4) : opY (encodeXY f x y n) = y := by
  have := x.isLt; have := y.isLt; have := n.isLt
  apply Fin.ext
  rw [opY_val, encodeXY_toNat]; omega

@[simp] theorem opN_encodeXY (f : BitVec 4) (x y : Reg) (n : BitVec 4) : opN (encodeXY f x y n) = n.toNat := by
  have := x.isLt; have := y.isLt; have := n.isLt
  rw [opN_eq, encodeXY_toNat]; omega

/-! ### Format `A` -/

@[simp] theorem opFamily_encodeA (f : BitVec 4) (nnn : Word) : opFamily (encodeA f nnn) = f.toNat := by
  rw [opFamily_eq, encodeA_toNat]; omega

/-- The 12 bits of an address that fits them are the whole address. -/
theorem opNnn_encodeA (f : BitVec 4) (nnn : Word) (h : Word.isAddr12 nnn) : opNnn (encodeA f nnn) = nnn := by
  have : nnn.toNat ≤ 0x0FFF := h
  apply BitVec.eq_of_toNat_eq
  rw [opNnn_toNat, encodeA_toNat]; omega

/-! ### When an opcode is selected by a match and mask (R70) -/

theorem and_F000_toNat (op : Word) : (op &&& 0xF000#16).toNat = op.toNat / 4096 * 4096 := by
  have h : op &&& 0xF000#16 = (op >>> 12) <<< 12 := by
    ext i hi
    interval_cases i <;> simp
  have := op.isLt
  rw [h]; simp [Nat.shiftRight_eq_div_pow, Nat.shiftLeft_eq]; omega

theorem and_000F_toNat (op : Word) : (op &&& 0x000F#16).toNat = op.toNat % 16 := by
  simpa using Nat.and_two_pow_sub_one_eq_mod op.toNat 4

theorem and_00FF_toNat (op : Word) : (op &&& 0x00FF#16).toNat = op.toNat % 256 := by
  simpa using Nat.and_two_pow_sub_one_eq_mod op.toNat 8

/-- A row of mask 0xF000. -/
theorem selects_family (op m : Word) (hm : m &&& 0xF000#16 = m) :
    op &&& 0xF000#16 = m ↔ op.toNat / 4096 = m.toNat / 4096 := by
  have h1 := and_F000_toNat op
  have h2 := and_F000_toNat m
  rw [hm] at h2
  constructor
  · intro h; rw [h] at h1; omega
  · intro h; apply BitVec.eq_of_toNat_eq; omega

/-- A match of family and selector bits `lo` is a match of each. -/
theorem selects_split (op m lo : Word) (hm : m &&& (0xF000#16 ||| lo) = m) :
    op &&& (0xF000#16 ||| lo) = m ↔ op &&& 0xF000#16 = m &&& 0xF000#16 ∧ op &&& lo = m &&& lo := by
  constructor
  · rintro rfl
    constructor <;> ext i hi <;> simp <;> grind
  · rintro ⟨h1, h2⟩
    rw [← hm]
    ext i hi
    have e1 := congrArg (·[i]) h1
    have e2 := congrArg (·[i]) h2
    simp at e1 e2 ⊢
    grind

/-- A row of mask 0xF00F. -/
theorem selects_nibble (op m : Word) (hm : m &&& 0xF00F#16 = m) :
    op &&& 0xF00F#16 = m ↔ op.toNat / 4096 = m.toNat / 4096 ∧ op.toNat % 16 = m.toNat % 16 := by
  rw [show (0xF00F#16 : Word) = 0xF000#16 ||| 0x000F#16 from rfl] at hm ⊢
  rw [selects_split _ _ _ hm, ← BitVec.toNat_inj, ← BitVec.toNat_inj, and_F000_toNat, and_F000_toNat,
    and_000F_toNat, and_000F_toNat]
  omega

/-- A row of mask 0xF0FF. -/
theorem selects_byte (op m : Word) (hm : m &&& 0xF0FF#16 = m) :
    op &&& 0xF0FF#16 = m ↔ op.toNat / 4096 = m.toNat / 4096 ∧ op.toNat % 256 = m.toNat % 256 := by
  rw [show (0xF0FF#16 : Word) = 0xF000#16 ||| 0x00FF#16 from rfl] at hm ⊢
  rw [selects_split _ _ _ hm, ← BitVec.toNat_inj, ← BitVec.toNat_inj, and_F000_toNat, and_F000_toNat,
    and_00FF_toNat, and_00FF_toNat]
  omega

/-! ### Bytes and words -/

/-- The bytes of an opcode, laid out and read back, are the opcode (20_memory.md R53). -/
@[simp] theorem opcodeOfBytes_slices (op : Word) : opcodeOfBytes (op.extractLsb' 8 8) (op.extractLsb' 0 8) = op := by
  have := op.isLt
  apply BitVec.eq_of_toNat_eq
  rw [opcodeOfBytes, toNat_append]
  simp [Nat.shiftRight_eq_div_pow]
  omega

/-- What the host asks of the decoder is the decoding of the word itself. -/
theorem decodeTableWord_eq (nbits w : Nat) : decodeTableWord nbits w = decodeWord (BitVec.ofNat 16 (w % 2 ^ nbits)) := by
  simp only [decodeTableWord, bytesOfOpcode, decode, opcodeOfBytes_slices]
  cases decodeWord (BitVec.ofNat 16 (w % 2 ^ nbits)) <;> rfl

end Sys2Proof
end

