-- ==== Sys2Proof/Laws/State.lean ====
section
/-! SUPPORT. What each update of State does to each field: one lemma per field per update, true by rfl, so that no later
proof unfolds a record update. The observers `reg`, `readByte`, `cell` and `memBase` are treated as fields where the
update leaves what they read alone. -/

namespace Sys2Proof.Machine.State

/-! ### setV -/

@[simp] theorem setV_params (s : State) (x : Vector Byte 16) : (s.setV x).params = s.params := rfl
@[simp] theorem setV_v (s : State) (x : Vector Byte 16) : (s.setV x).v = x := rfl
@[simp] theorem setV_i (s : State) (x : Vector Byte 16) : (s.setV x).i = s.i := rfl
@[simp] theorem setV_pc (s : State) (x : Vector Byte 16) : (s.setV x).pc = s.pc := rfl
@[simp] theorem setV_stack (s : State) (x : Vector Byte 16) : (s.setV x).stack = s.stack := rfl
@[simp] theorem setV_dt (s : State) (x : Vector Byte 16) : (s.setV x).dt = s.dt := rfl
@[simp] theorem setV_st (s : State) (x : Vector Byte 16) : (s.setV x).st = s.st := rfl
@[simp] theorem setV_keys (s : State) (x : Vector Byte 16) : (s.setV x).keys = s.keys := rfl
@[simp] theorem setV_display (s : State) (x : Vector Byte 16) : (s.setV x).display = s.display := rfl
@[simp] theorem setV_mem (s : State) (x : Vector Byte 16) : (s.setV x).mem = s.mem := rfl
@[simp] theorem setV_rng (s : State) (x : Vector Byte 16) : (s.setV x).rng = s.rng := rfl
@[simp] theorem setV_frames (s : State) (x : Vector Byte 16) : (s.setV x).frames = s.frames := rfl
@[simp] theorem setV_bc (s : State) (x : Vector Byte 16) : (s.setV x).bc = s.bc := rfl
@[simp] theorem setV_runState (s : State) (x : Vector Byte 16) : (s.setV x).runState = s.runState := rfl
@[simp] theorem setV_faultLatch (s : State) (x : Vector Byte 16) : (s.setV x).faultLatch = s.faultLatch := rfl
@[simp] theorem setV_tickLatch (s : State) (x : Vector Byte 16) : (s.setV x).tickLatch = s.tickLatch := rfl
@[simp] theorem setV_schedule (s : State) (x : Vector Byte 16) : (s.setV x).schedule = s.schedule := rfl
@[simp] theorem setV_reply (s : State) (x : Vector Byte 16) : (s.setV x).reply = s.reply := rfl
@[simp] theorem setV_stopPending (s : State) (x : Vector Byte 16) : (s.setV x).stopPending = s.stopPending := rfl
@[simp] theorem setV_readByte (s : State) (x : Vector Byte 16) (a : Nat) : (s.setV x).readByte a = s.readByte a := rfl
@[simp] theorem setV_cell (s : State) (x : Vector Byte 16) (px py : Nat) : (s.setV x).cell px py = s.cell px py := rfl
@[simp] theorem setV_memBase (s : State) (x : Vector Byte 16) : (s.setV x).memBase = s.memBase := rfl

/-! ### setI -/

@[simp] theorem setI_params (s : State) (x : Word) : (s.setI x).params = s.params := rfl
@[simp] theorem setI_v (s : State) (x : Word) : (s.setI x).v = s.v := rfl
@[simp] theorem setI_i (s : State) (x : Word) : (s.setI x).i = x := rfl
@[simp] theorem setI_pc (s : State) (x : Word) : (s.setI x).pc = s.pc := rfl
@[simp] theorem setI_stack (s : State) (x : Word) : (s.setI x).stack = s.stack := rfl
@[simp] theorem setI_dt (s : State) (x : Word) : (s.setI x).dt = s.dt := rfl
@[simp] theorem setI_st (s : State) (x : Word) : (s.setI x).st = s.st := rfl
@[simp] theorem setI_keys (s : State) (x : Word) : (s.setI x).keys = s.keys := rfl
@[simp] theorem setI_display (s : State) (x : Word) : (s.setI x).display = s.display := rfl
@[simp] theorem setI_mem (s : State) (x : Word) : (s.setI x).mem = s.mem := rfl
@[simp] theorem setI_rng (s : State) (x : Word) : (s.setI x).rng = s.rng := rfl
@[simp] theorem setI_frames (s : State) (x : Word) : (s.setI x).frames = s.frames := rfl
@[simp] theorem setI_bc (s : State) (x : Word) : (s.setI x).bc = s.bc := rfl
@[simp] theorem setI_runState (s : State) (x : Word) : (s.setI x).runState = s.runState := rfl
@[simp] theorem setI_faultLatch (s : State) (x : Word) : (s.setI x).faultLatch = s.faultLatch := rfl
@[simp] theorem setI_tickLatch (s : State) (x : Word) : (s.setI x).tickLatch = s.tickLatch := rfl
@[simp] theorem setI_schedule (s : State) (x : Word) : (s.setI x).schedule = s.schedule := rfl
@[simp] theorem setI_reply (s : State) (x : Word) : (s.setI x).reply = s.reply := rfl
@[simp] theorem setI_stopPending (s : State) (x : Word) : (s.setI x).stopPending = s.stopPending := rfl
@[simp] theorem setI_reg (s : State) (x : Word) (r : Reg) : (s.setI x).reg r = s.reg r := rfl
@[simp] theorem setI_readByte (s : State) (x : Word) (a : Nat) : (s.setI x).readByte a = s.readByte a := rfl
@[simp] theorem setI_cell (s : State) (x : Word) (px py : Nat) : (s.setI x).cell px py = s.cell px py := rfl
@[simp] theorem setI_memBase (s : State) (x : Word) : (s.setI x).memBase = s.memBase := rfl

/-! ### setPc -/

@[simp] theorem setPc_params (s : State) (x : Word) : (s.setPc x).params = s.params := rfl
@[simp] theorem setPc_v (s : State) (x : Word) : (s.setPc x).v = s.v := rfl
@[simp] theorem setPc_i (s : State) (x : Word) : (s.setPc x).i = s.i := rfl
@[simp] theorem setPc_pc (s : State) (x : Word) : (s.setPc x).pc = x := rfl
@[simp] theorem setPc_stack (s : State) (x : Word) : (s.setPc x).stack = s.stack := rfl
@[simp] theorem setPc_dt (s : State) (x : Word) : (s.setPc x).dt = s.dt := rfl
@[simp] theorem setPc_st (s : State) (x : Word) : (s.setPc x).st = s.st := rfl
@[simp] theorem setPc_keys (s : State) (x : Word) : (s.setPc x).keys = s.keys := rfl
@[simp] theorem setPc_display (s : State) (x : Word) : (s.setPc x).display = s.display := rfl
@[simp] theorem setPc_mem (s : State) (x : Word) : (s.setPc x).mem = s.mem := rfl
@[simp] theorem setPc_rng (s : State) (x : Word) : (s.setPc x).rng = s.rng := rfl
@[simp] theorem setPc_frames (s : State) (x : Word) : (s.setPc x).frames = s.frames := rfl
@[simp] theorem setPc_bc (s : State) (x : Word) : (s.setPc x).bc = s.bc := rfl
@[simp] theorem setPc_runState (s : State) (x : Word) : (s.setPc x).runState = s.runState := rfl
@[simp] theorem setPc_faultLatch (s : State) (x : Word) : (s.setPc x).faultLatch = s.faultLatch := rfl
@[simp] theorem setPc_tickLatch (s : State) (x : Word) : (s.setPc x).tickLatch = s.tickLatch := rfl
@[simp] theorem setPc_schedule (s : State) (x : Word) : (s.setPc x).schedule = s.schedule := rfl
@[simp] theorem setPc_reply (s : State) (x : Word) : (s.setPc x).reply = s.reply := rfl
@[simp] theorem setPc_stopPending (s : State) (x : Word) : (s.setPc x).stopPending = s.stopPending := rfl
@[simp] theorem setPc_reg (s : State) (x : Word) (r : Reg) : (s.setPc x).reg r = s.reg r := rfl
@[simp] theorem setPc_readByte (s : State) (x : Word) (a : Nat) : (s.setPc x).readByte a = s.readByte a := rfl
@[simp] theorem setPc_cell (s : State) (x : Word) (px py : Nat) : (s.setPc x).cell px py = s.cell px py := rfl
@[simp] theorem setPc_memBase (s : State) (x : Word) : (s.setPc x).memBase = s.memBase := rfl

/-! ### setStack -/

@[simp] theorem setStack_params (s : State) (x : List Word) : (s.setStack x).params = s.params := rfl
@[simp] theorem setStack_v (s : State) (x : List Word) : (s.setStack x).v = s.v := rfl
@[simp] theorem setStack_i (s : State) (x : List Word) : (s.setStack x).i = s.i := rfl
@[simp] theorem setStack_pc (s : State) (x : List Word) : (s.setStack x).pc = s.pc := rfl
@[simp] theorem setStack_stack (s : State) (x : List Word) : (s.setStack x).stack = x := rfl
@[simp] theorem setStack_dt (s : State) (x : List Word) : (s.setStack x).dt = s.dt := rfl
@[simp] theorem setStack_st (s : State) (x : List Word) : (s.setStack x).st = s.st := rfl
@[simp] theorem setStack_keys (s : State) (x : List Word) : (s.setStack x).keys = s.keys := rfl
@[simp] theorem setStack_display (s : State) (x : List Word) : (s.setStack x).display = s.display := rfl
@[simp] theorem setStack_mem (s : State) (x : List Word) : (s.setStack x).mem = s.mem := rfl
@[simp] theorem setStack_rng (s : State) (x : List Word) : (s.setStack x).rng = s.rng := rfl
@[simp] theorem setStack_frames (s : State) (x : List Word) : (s.setStack x).frames = s.frames := rfl
@[simp] theorem setStack_bc (s : State) (x : List Word) : (s.setStack x).bc = s.bc := rfl
@[simp] theorem setStack_runState (s : State) (x : List Word) : (s.setStack x).runState = s.runState := rfl
@[simp] theorem setStack_faultLatch (s : State) (x : List Word) : (s.setStack x).faultLatch = s.faultLatch := rfl
@[simp] theorem setStack_tickLatch (s : State) (x : List Word) : (s.setStack x).tickLatch = s.tickLatch := rfl
@[simp] theorem setStack_schedule (s : State) (x : List Word) : (s.setStack x).schedule = s.schedule := rfl
@[simp] theorem setStack_reply (s : State) (x : List Word) : (s.setStack x).reply = s.reply := rfl
@[simp] theorem setStack_stopPending (s : State) (x : List Word) : (s.setStack x).stopPending = s.stopPending := rfl
@[simp] theorem setStack_reg (s : State) (x : List Word) (r : Reg) : (s.setStack x).reg r = s.reg r := rfl
@[simp] theorem setStack_readByte (s : State) (x : List Word) (a : Nat) : (s.setStack x).readByte a = s.readByte a := rfl
@[simp] theorem setStack_cell (s : State) (x : List Word) (px py : Nat) : (s.setStack x).cell px py = s.cell px py := rfl
@[simp] theorem setStack_memBase (s : State) (x : List Word) : (s.setStack x).memBase = s.memBase := rfl

/-! ### setDt -/

@[simp] theorem setDt_params (s : State) (x : Byte) : (s.setDt x).params = s.params := rfl
@[simp] theorem setDt_v (s : State) (x : Byte) : (s.setDt x).v = s.v := rfl
@[simp] theorem setDt_i (s : State) (x : Byte) : (s.setDt x).i = s.i := rfl
@[simp] theorem setDt_pc (s : State) (x : Byte) : (s.setDt x).pc = s.pc := rfl
@[simp] theorem setDt_stack (s : State) (x : Byte) : (s.setDt x).stack = s.stack := rfl
@[simp] theorem setDt_dt (s : State) (x : Byte) : (s.setDt x).dt = x := rfl
@[simp] theorem setDt_st (s : State) (x : Byte) : (s.setDt x).st = s.st := rfl
@[simp] theorem setDt_keys (s : State) (x : Byte) : (s.setDt x).keys = s.keys := rfl
@[simp] theorem setDt_display (s : State) (x : Byte) : (s.setDt x).display = s.display := rfl
@[simp] theorem setDt_mem (s : State) (x : Byte) : (s.setDt x).mem = s.mem := rfl
@[simp] theorem setDt_rng (s : State) (x : Byte) : (s.setDt x).rng = s.rng := rfl
@[simp] theorem setDt_frames (s : State) (x : Byte) : (s.setDt x).frames = s.frames := rfl
@[simp] theorem setDt_bc (s : State) (x : Byte) : (s.setDt x).bc = s.bc := rfl
@[simp] theorem setDt_runState (s : State) (x : Byte) : (s.setDt x).runState = s.runState := rfl
@[simp] theorem setDt_faultLatch (s : State) (x : Byte) : (s.setDt x).faultLatch = s.faultLatch := rfl
@[simp] theorem setDt_tickLatch (s : State) (x : Byte) : (s.setDt x).tickLatch = s.tickLatch := rfl
@[simp] theorem setDt_schedule (s : State) (x : Byte) : (s.setDt x).schedule = s.schedule := rfl
@[simp] theorem setDt_reply (s : State) (x : Byte) : (s.setDt x).reply = s.reply := rfl
@[simp] theorem setDt_stopPending (s : State) (x : Byte) : (s.setDt x).stopPending = s.stopPending := rfl
@[simp] theorem setDt_reg (s : State) (x : Byte) (r : Reg) : (s.setDt x).reg r = s.reg r := rfl
@[simp] theorem setDt_readByte (s : State) (x : Byte) (a : Nat) : (s.setDt x).readByte a = s.readByte a := rfl
@[simp] theorem setDt_cell (s : State) (x : Byte) (px py : Nat) : (s.setDt x).cell px py = s.cell px py := rfl
@[simp] theorem setDt_memBase (s : State) (x : Byte) : (s.setDt x).memBase = s.memBase := rfl

/-! ### setSt -/

@[simp] theorem setSt_params (s : State) (x : Byte) : (s.setSt x).params = s.params := rfl
@[simp] theorem setSt_v (s : State) (x : Byte) : (s.setSt x).v = s.v := rfl
@[simp] theorem setSt_i (s : State) (x : Byte) : (s.setSt x).i = s.i := rfl
@[simp] theorem setSt_pc (s : State) (x : Byte) : (s.setSt x).pc = s.pc := rfl
@[simp] theorem setSt_stack (s : State) (x : Byte) : (s.setSt x).stack = s.stack := rfl
@[simp] theorem setSt_dt (s : State) (x : Byte) : (s.setSt x).dt = s.dt := rfl
@[simp] theorem setSt_st (s : State) (x : Byte) : (s.setSt x).st = x := rfl
@[simp] theorem setSt_keys (s : State) (x : Byte) : (s.setSt x).keys = s.keys := rfl
@[simp] theorem setSt_display (s : State) (x : Byte) : (s.setSt x).display = s.display := rfl
@[simp] theorem setSt_mem (s : State) (x : Byte) : (s.setSt x).mem = s.mem := rfl
@[simp] theorem setSt_rng (s : State) (x : Byte) : (s.setSt x).rng = s.rng := rfl
@[simp] theorem setSt_frames (s : State) (x : Byte) : (s.setSt x).frames = s.frames := rfl
@[simp] theorem setSt_bc (s : State) (x : Byte) : (s.setSt x).bc = s.bc := rfl
@[simp] theorem setSt_runState (s : State) (x : Byte) : (s.setSt x).runState = s.runState := rfl
@[simp] theorem setSt_faultLatch (s : State) (x : Byte) : (s.setSt x).faultLatch = s.faultLatch := rfl
@[simp] theorem setSt_tickLatch (s : State) (x : Byte) : (s.setSt x).tickLatch = s.tickLatch := rfl
@[simp] theorem setSt_schedule (s : State) (x : Byte) : (s.setSt x).schedule = s.schedule := rfl
@[simp] theorem setSt_reply (s : State) (x : Byte) : (s.setSt x).reply = s.reply := rfl
@[simp] theorem setSt_stopPending (s : State) (x : Byte) : (s.setSt x).stopPending = s.stopPending := rfl
@[simp] theorem setSt_reg (s : State) (x : Byte) (r : Reg) : (s.setSt x).reg r = s.reg r := rfl
@[simp] theorem setSt_readByte (s : State) (x : Byte) (a : Nat) : (s.setSt x).readByte a = s.readByte a := rfl
@[simp] theorem setSt_cell (s : State) (x : Byte) (px py : Nat) : (s.setSt x).cell px py = s.cell px py := rfl
@[simp] theorem setSt_memBase (s : State) (x : Byte) : (s.setSt x).memBase = s.memBase := rfl

/-! ### setKeys -/

@[simp] theorem setKeys_params (s : State) (x : BitVec 16) : (s.setKeys x).params = s.params := rfl
@[simp] theorem setKeys_v (s : State) (x : BitVec 16) : (s.setKeys x).v = s.v := rfl
@[simp] theorem setKeys_i (s : State) (x : BitVec 16) : (s.setKeys x).i = s.i := rfl
@[simp] theorem setKeys_pc (s : State) (x : BitVec 16) : (s.setKeys x).pc = s.pc := rfl
@[simp] theorem setKeys_stack (s : State) (x : BitVec 16) : (s.setKeys x).stack = s.stack := rfl
@[simp] theorem setKeys_dt (s : State) (x : BitVec 16) : (s.setKeys x).dt = s.dt := rfl
@[simp] theorem setKeys_st (s : State) (x : BitVec 16) : (s.setKeys x).st = s.st := rfl
@[simp] theorem setKeys_keys (s : State) (x : BitVec 16) : (s.setKeys x).keys = x := rfl
@[simp] theorem setKeys_display (s : State) (x : BitVec 16) : (s.setKeys x).display = s.display := rfl
@[simp] theorem setKeys_mem (s : State) (x : BitVec 16) : (s.setKeys x).mem = s.mem := rfl
@[simp] theorem setKeys_rng (s : State) (x : BitVec 16) : (s.setKeys x).rng = s.rng := rfl
@[simp] theorem setKeys_frames (s : State) (x : BitVec 16) : (s.setKeys x).frames = s.frames := rfl
@[simp] theorem setKeys_bc (s : State) (x : BitVec 16) : (s.setKeys x).bc = s.bc := rfl
@[simp] theorem setKeys_runState (s : State) (x : BitVec 16) : (s.setKeys x).runState = s.runState := rfl
@[simp] theorem setKeys_faultLatch (s : State) (x : BitVec 16) : (s.setKeys x).faultLatch = s.faultLatch := rfl
@[simp] theorem setKeys_tickLatch (s : State) (x : BitVec 16) : (s.setKeys x).tickLatch = s.tickLatch := rfl
@[simp] theorem setKeys_schedule (s : State) (x : BitVec 16) : (s.setKeys x).schedule = s.schedule := rfl
@[simp] theorem setKeys_reply (s : State) (x : BitVec 16) : (s.setKeys x).reply = s.reply := rfl
@[simp] theorem setKeys_stopPending (s : State) (x : BitVec 16) : (s.setKeys x).stopPending = s.stopPending := rfl
@[simp] theorem setKeys_reg (s : State) (x : BitVec 16) (r : Reg) : (s.setKeys x).reg r = s.reg r := rfl
@[simp] theorem setKeys_readByte (s : State) (x : BitVec 16) (a : Nat) : (s.setKeys x).readByte a = s.readByte a := rfl
@[simp] theorem setKeys_cell (s : State) (x : BitVec 16) (px py : Nat) : (s.setKeys x).cell px py = s.cell px py := rfl
@[simp] theorem setKeys_memBase (s : State) (x : BitVec 16) : (s.setKeys x).memBase = s.memBase := rfl

/-! ### setDisplay -/

@[simp] theorem setDisplay_params (s : State) (x : Display) : (s.setDisplay x).params = s.params := rfl
@[simp] theorem setDisplay_v (s : State) (x : Display) : (s.setDisplay x).v = s.v := rfl
@[simp] theorem setDisplay_i (s : State) (x : Display) : (s.setDisplay x).i = s.i := rfl
@[simp] theorem setDisplay_pc (s : State) (x : Display) : (s.setDisplay x).pc = s.pc := rfl
@[simp] theorem setDisplay_stack (s : State) (x : Display) : (s.setDisplay x).stack = s.stack := rfl
@[simp] theorem setDisplay_dt (s : State) (x : Display) : (s.setDisplay x).dt = s.dt := rfl
@[simp] theorem setDisplay_st (s : State) (x : Display) : (s.setDisplay x).st = s.st := rfl
@[simp] theorem setDisplay_keys (s : State) (x : Display) : (s.setDisplay x).keys = s.keys := rfl
@[simp] theorem setDisplay_display (s : State) (x : Display) : (s.setDisplay x).display = x := rfl
@[simp] theorem setDisplay_mem (s : State) (x : Display) : (s.setDisplay x).mem = s.mem := rfl
@[simp] theorem setDisplay_rng (s : State) (x : Display) : (s.setDisplay x).rng = s.rng := rfl
@[simp] theorem setDisplay_frames (s : State) (x : Display) : (s.setDisplay x).frames = s.frames := rfl
@[simp] theorem setDisplay_bc (s : State) (x : Display) : (s.setDisplay x).bc = s.bc := rfl
@[simp] theorem setDisplay_runState (s : State) (x : Display) : (s.setDisplay x).runState = s.runState := rfl
@[simp] theorem setDisplay_faultLatch (s : State) (x : Display) : (s.setDisplay x).faultLatch = s.faultLatch := rfl
@[simp] theorem setDisplay_tickLatch (s : State) (x : Display) : (s.setDisplay x).tickLatch = s.tickLatch := rfl
@[simp] theorem setDisplay_schedule (s : State) (x : Display) : (s.setDisplay x).schedule = s.schedule := rfl
@[simp] theorem setDisplay_reply (s : State) (x : Display) : (s.setDisplay x).reply = s.reply := rfl
@[simp] theorem setDisplay_stopPending (s : State) (x : Display) : (s.setDisplay x).stopPending = s.stopPending := rfl
@[simp] theorem setDisplay_reg (s : State) (x : Display) (r : Reg) : (s.setDisplay x).reg r = s.reg r := rfl
@[simp] theorem setDisplay_readByte (s : State) (x : Display) (a : Nat) : (s.setDisplay x).readByte a = s.readByte a := rfl
@[simp] theorem setDisplay_memBase (s : State) (x : Display) : (s.setDisplay x).memBase = s.memBase := rfl

/-! ### setMem -/

@[simp] theorem setMem_params (s : State) (x : List Host.Cell) : (s.setMem x).params = s.params := rfl
@[simp] theorem setMem_v (s : State) (x : List Host.Cell) : (s.setMem x).v = s.v := rfl
@[simp] theorem setMem_i (s : State) (x : List Host.Cell) : (s.setMem x).i = s.i := rfl
@[simp] theorem setMem_pc (s : State) (x : List Host.Cell) : (s.setMem x).pc = s.pc := rfl
@[simp] theorem setMem_stack (s : State) (x : List Host.Cell) : (s.setMem x).stack = s.stack := rfl
@[simp] theorem setMem_dt (s : State) (x : List Host.Cell) : (s.setMem x).dt = s.dt := rfl
@[simp] theorem setMem_st (s : State) (x : List Host.Cell) : (s.setMem x).st = s.st := rfl
@[simp] theorem setMem_keys (s : State) (x : List Host.Cell) : (s.setMem x).keys = s.keys := rfl
@[simp] theorem setMem_display (s : State) (x : List Host.Cell) : (s.setMem x).display = s.display := rfl
@[simp] theorem setMem_mem (s : State) (x : List Host.Cell) : (s.setMem x).mem = x := rfl
@[simp] theorem setMem_rng (s : State) (x : List Host.Cell) : (s.setMem x).rng = s.rng := rfl
@[simp] theorem setMem_frames (s : State) (x : List Host.Cell) : (s.setMem x).frames = s.frames := rfl
@[simp] theorem setMem_bc (s : State) (x : List Host.Cell) : (s.setMem x).bc = s.bc := rfl
@[simp] theorem setMem_runState (s : State) (x : List Host.Cell) : (s.setMem x).runState = s.runState := rfl
@[simp] theorem setMem_faultLatch (s : State) (x : List Host.Cell) : (s.setMem x).faultLatch = s.faultLatch := rfl
@[simp] theorem setMem_tickLatch (s : State) (x : List Host.Cell) : (s.setMem x).tickLatch = s.tickLatch := rfl
@[simp] theorem setMem_schedule (s : State) (x : List Host.Cell) : (s.setMem x).schedule = s.schedule := rfl
@[simp] theorem setMem_reply (s : State) (x : List Host.Cell) : (s.setMem x).reply = s.reply := rfl
@[simp] theorem setMem_stopPending (s : State) (x : List Host.Cell) : (s.setMem x).stopPending = s.stopPending := rfl
@[simp] theorem setMem_reg (s : State) (x : List Host.Cell) (r : Reg) : (s.setMem x).reg r = s.reg r := rfl
@[simp] theorem setMem_cell (s : State) (x : List Host.Cell) (px py : Nat) : (s.setMem x).cell px py = s.cell px py := rfl
@[simp] theorem setMem_memBase (s : State) (x : List Host.Cell) : (s.setMem x).memBase = s.memBase := rfl

/-! ### setRng -/

@[simp] theorem setRng_params (s : State) (x : Nat) : (s.setRng x).params = s.params := rfl
@[simp] theorem setRng_v (s : State) (x : Nat) : (s.setRng x).v = s.v := rfl
@[simp] theorem setRng_i (s : State) (x : Nat) : (s.setRng x).i = s.i := rfl
@[simp] theorem setRng_pc (s : State) (x : Nat) : (s.setRng x).pc = s.pc := rfl
@[simp] theorem setRng_stack (s : State) (x : Nat) : (s.setRng x).stack = s.stack := rfl
@[simp] theorem setRng_dt (s : State) (x : Nat) : (s.setRng x).dt = s.dt := rfl
@[simp] theorem setRng_st (s : State) (x : Nat) : (s.setRng x).st = s.st := rfl
@[simp] theorem setRng_keys (s : State) (x : Nat) : (s.setRng x).keys = s.keys := rfl
@[simp] theorem setRng_display (s : State) (x : Nat) : (s.setRng x).display = s.display := rfl
@[simp] theorem setRng_mem (s : State) (x : Nat) : (s.setRng x).mem = s.mem := rfl
@[simp] theorem setRng_rng (s : State) (x : Nat) : (s.setRng x).rng = x := rfl
@[simp] theorem setRng_frames (s : State) (x : Nat) : (s.setRng x).frames = s.frames := rfl
@[simp] theorem setRng_bc (s : State) (x : Nat) : (s.setRng x).bc = s.bc := rfl
@[simp] theorem setRng_runState (s : State) (x : Nat) : (s.setRng x).runState = s.runState := rfl
@[simp] theorem setRng_faultLatch (s : State) (x : Nat) : (s.setRng x).faultLatch = s.faultLatch := rfl
@[simp] theorem setRng_tickLatch (s : State) (x : Nat) : (s.setRng x).tickLatch = s.tickLatch := rfl
@[simp] theorem setRng_schedule (s : State) (x : Nat) : (s.setRng x).schedule = s.schedule := rfl
@[simp] theorem setRng_reply (s : State) (x : Nat) : (s.setRng x).reply = s.reply := rfl
@[simp] theorem setRng_stopPending (s : State) (x : Nat) : (s.setRng x).stopPending = s.stopPending := rfl
@[simp] theorem setRng_reg (s : State) (x : Nat) (r : Reg) : (s.setRng x).reg r = s.reg r := rfl
@[simp] theorem setRng_readByte (s : State) (x : Nat) (a : Nat) : (s.setRng x).readByte a = s.readByte a := rfl
@[simp] theorem setRng_cell (s : State) (x : Nat) (px py : Nat) : (s.setRng x).cell px py = s.cell px py := rfl
@[simp] theorem setRng_memBase (s : State) (x : Nat) : (s.setRng x).memBase = s.memBase := rfl

/-! ### setFrames -/

@[simp] theorem setFrames_params (s : State) (x : List Frame) : (s.setFrames x).params = s.params := rfl
@[simp] theorem setFrames_v (s : State) (x : List Frame) : (s.setFrames x).v = s.v := rfl
@[simp] theorem setFrames_i (s : State) (x : List Frame) : (s.setFrames x).i = s.i := rfl
@[simp] theorem setFrames_pc (s : State) (x : List Frame) : (s.setFrames x).pc = s.pc := rfl
@[simp] theorem setFrames_stack (s : State) (x : List Frame) : (s.setFrames x).stack = s.stack := rfl
@[simp] theorem setFrames_dt (s : State) (x : List Frame) : (s.setFrames x).dt = s.dt := rfl
@[simp] theorem setFrames_st (s : State) (x : List Frame) : (s.setFrames x).st = s.st := rfl
@[simp] theorem setFrames_keys (s : State) (x : List Frame) : (s.setFrames x).keys = s.keys := rfl
@[simp] theorem setFrames_display (s : State) (x : List Frame) : (s.setFrames x).display = s.display := rfl
@[simp] theorem setFrames_mem (s : State) (x : List Frame) : (s.setFrames x).mem = s.mem := rfl
@[simp] theorem setFrames_rng (s : State) (x : List Frame) : (s.setFrames x).rng = s.rng := rfl
@[simp] theorem setFrames_frames (s : State) (x : List Frame) : (s.setFrames x).frames = x := rfl
@[simp] theorem setFrames_bc (s : State) (x : List Frame) : (s.setFrames x).bc = s.bc := rfl
@[simp] theorem setFrames_runState (s : State) (x : List Frame) : (s.setFrames x).runState = s.runState := rfl
@[simp] theorem setFrames_faultLatch (s : State) (x : List Frame) : (s.setFrames x).faultLatch = s.faultLatch := rfl
@[simp] theorem setFrames_tickLatch (s : State) (x : List Frame) : (s.setFrames x).tickLatch = s.tickLatch := rfl
@[simp] theorem setFrames_schedule (s : State) (x : List Frame) : (s.setFrames x).schedule = s.schedule := rfl
@[simp] theorem setFrames_reply (s : State) (x : List Frame) : (s.setFrames x).reply = s.reply := rfl
@[simp] theorem setFrames_stopPending (s : State) (x : List Frame) : (s.setFrames x).stopPending = s.stopPending := rfl
@[simp] theorem setFrames_reg (s : State) (x : List Frame) (r : Reg) : (s.setFrames x).reg r = s.reg r := rfl
@[simp] theorem setFrames_readByte (s : State) (x : List Frame) (a : Nat) : (s.setFrames x).readByte a = s.readByte a := rfl
@[simp] theorem setFrames_cell (s : State) (x : List Frame) (px py : Nat) : (s.setFrames x).cell px py = s.cell px py := rfl
@[simp] theorem setFrames_memBase (s : State) (x : List Frame) : (s.setFrames x).memBase = s.memBase := rfl

/-! ### setBc -/

@[simp] theorem setBc_params (s : State) (x : Nat) : (s.setBc x).params = s.params := rfl
@[simp] theorem setBc_v (s : State) (x : Nat) : (s.setBc x).v = s.v := rfl
@[simp] theorem setBc_i (s : State) (x : Nat) : (s.setBc x).i = s.i := rfl
@[simp] theorem setBc_pc (s : State) (x : Nat) : (s.setBc x).pc = s.pc := rfl
@[simp] theorem setBc_stack (s : State) (x : Nat) : (s.setBc x).stack = s.stack := rfl
@[simp] theorem setBc_dt (s : State) (x : Nat) : (s.setBc x).dt = s.dt := rfl
@[simp] theorem setBc_st (s : State) (x : Nat) : (s.setBc x).st = s.st := rfl
@[simp] theorem setBc_keys (s : State) (x : Nat) : (s.setBc x).keys = s.keys := rfl
@[simp] theorem setBc_display (s : State) (x : Nat) : (s.setBc x).display = s.display := rfl
@[simp] theorem setBc_mem (s : State) (x : Nat) : (s.setBc x).mem = s.mem := rfl
@[simp] theorem setBc_rng (s : State) (x : Nat) : (s.setBc x).rng = s.rng := rfl
@[simp] theorem setBc_frames (s : State) (x : Nat) : (s.setBc x).frames = s.frames := rfl
@[simp] theorem setBc_bc (s : State) (x : Nat) : (s.setBc x).bc = x := rfl
@[simp] theorem setBc_runState (s : State) (x : Nat) : (s.setBc x).runState = s.runState := rfl
@[simp] theorem setBc_faultLatch (s : State) (x : Nat) : (s.setBc x).faultLatch = s.faultLatch := rfl
@[simp] theorem setBc_tickLatch (s : State) (x : Nat) : (s.setBc x).tickLatch = s.tickLatch := rfl
@[simp] theorem setBc_schedule (s : State) (x : Nat) : (s.setBc x).schedule = s.schedule := rfl
@[simp] theorem setBc_reply (s : State) (x : Nat) : (s.setBc x).reply = s.reply := rfl
@[simp] theorem setBc_stopPending (s : State) (x : Nat) : (s.setBc x).stopPending = s.stopPending := rfl
@[simp] theorem setBc_reg (s : State) (x : Nat) (r : Reg) : (s.setBc x).reg r = s.reg r := rfl
@[simp] theorem setBc_readByte (s : State) (x : Nat) (a : Nat) : (s.setBc x).readByte a = s.readByte a := rfl
@[simp] theorem setBc_cell (s : State) (x : Nat) (px py : Nat) : (s.setBc x).cell px py = s.cell px py := rfl
@[simp] theorem setBc_memBase (s : State) (x : Nat) : (s.setBc x).memBase = s.memBase := rfl

/-! ### setRunState -/

@[simp] theorem setRunState_params (s : State) (x : RunState) : (s.setRunState x).params = s.params := rfl
@[simp] theorem setRunState_v (s : State) (x : RunState) : (s.setRunState x).v = s.v := rfl
@[simp] theorem setRunState_i (s : State) (x : RunState) : (s.setRunState x).i = s.i := rfl
@[simp] theorem setRunState_pc (s : State) (x : RunState) : (s.setRunState x).pc = s.pc := rfl
@[simp] theorem setRunState_stack (s : State) (x : RunState) : (s.setRunState x).stack = s.stack := rfl
@[simp] theorem setRunState_dt (s : State) (x : RunState) : (s.setRunState x).dt = s.dt := rfl
@[simp] theorem setRunState_st (s : State) (x : RunState) : (s.setRunState x).st = s.st := rfl
@[simp] theorem setRunState_keys (s : State) (x : RunState) : (s.setRunState x).keys = s.keys := rfl
@[simp] theorem setRunState_display (s : State) (x : RunState) : (s.setRunState x).display = s.display := rfl
@[simp] theorem setRunState_mem (s : State) (x : RunState) : (s.setRunState x).mem = s.mem := rfl
@[simp] theorem setRunState_rng (s : State) (x : RunState) : (s.setRunState x).rng = s.rng := rfl
@[simp] theorem setRunState_frames (s : State) (x : RunState) : (s.setRunState x).frames = s.frames := rfl
@[simp] theorem setRunState_bc (s : State) (x : RunState) : (s.setRunState x).bc = s.bc := rfl
@[simp] theorem setRunState_runState (s : State) (x : RunState) : (s.setRunState x).runState = x := rfl
@[simp] theorem setRunState_faultLatch (s : State) (x : RunState) : (s.setRunState x).faultLatch = s.faultLatch := rfl
@[simp] theorem setRunState_tickLatch (s : State) (x : RunState) : (s.setRunState x).tickLatch = s.tickLatch := rfl
@[simp] theorem setRunState_schedule (s : State) (x : RunState) : (s.setRunState x).schedule = s.schedule := rfl
@[simp] theorem setRunState_reply (s : State) (x : RunState) : (s.setRunState x).reply = s.reply := rfl
@[simp] theorem setRunState_stopPending (s : State) (x : RunState) : (s.setRunState x).stopPending = s.stopPending := rfl
@[simp] theorem setRunState_reg (s : State) (x : RunState) (r : Reg) : (s.setRunState x).reg r = s.reg r := rfl
@[simp] theorem setRunState_readByte (s : State) (x : RunState) (a : Nat) : (s.setRunState x).readByte a = s.readByte a := rfl
@[simp] theorem setRunState_cell (s : State) (x : RunState) (px py : Nat) : (s.setRunState x).cell px py = s.cell px py := rfl
@[simp] theorem setRunState_memBase (s : State) (x : RunState) : (s.setRunState x).memBase = s.memBase := rfl

/-! ### setFaultLatch -/

@[simp] theorem setFaultLatch_params (s : State) (x : Option Latched) : (s.setFaultLatch x).params = s.params := rfl
@[simp] theorem setFaultLatch_v (s : State) (x : Option Latched) : (s.setFaultLatch x).v = s.v := rfl
@[simp] theorem setFaultLatch_i (s : State) (x : Option Latched) : (s.setFaultLatch x).i = s.i := rfl
@[simp] theorem setFaultLatch_pc (s : State) (x : Option Latched) : (s.setFaultLatch x).pc = s.pc := rfl
@[simp] theorem setFaultLatch_stack (s : State) (x : Option Latched) : (s.setFaultLatch x).stack = s.stack := rfl
@[simp] theorem setFaultLatch_dt (s : State) (x : Option Latched) : (s.setFaultLatch x).dt = s.dt := rfl
@[simp] theorem setFaultLatch_st (s : State) (x : Option Latched) : (s.setFaultLatch x).st = s.st := rfl
@[simp] theorem setFaultLatch_keys (s : State) (x : Option Latched) : (s.setFaultLatch x).keys = s.keys := rfl
@[simp] theorem setFaultLatch_display (s : State) (x : Option Latched) : (s.setFaultLatch x).display = s.display := rfl
@[simp] theorem setFaultLatch_mem (s : State) (x : Option Latched) : (s.setFaultLatch x).mem = s.mem := rfl
@[simp] theorem setFaultLatch_rng (s : State) (x : Option Latched) : (s.setFaultLatch x).rng = s.rng := rfl
@[simp] theorem setFaultLatch_frames (s : State) (x : Option Latched) : (s.setFaultLatch x).frames = s.frames := rfl
@[simp] theorem setFaultLatch_bc (s : State) (x : Option Latched) : (s.setFaultLatch x).bc = s.bc := rfl
@[simp] theorem setFaultLatch_runState (s : State) (x : Option Latched) : (s.setFaultLatch x).runState = s.runState := rfl
@[simp] theorem setFaultLatch_faultLatch (s : State) (x : Option Latched) : (s.setFaultLatch x).faultLatch = x := rfl
@[simp] theorem setFaultLatch_tickLatch (s : State) (x : Option Latched) : (s.setFaultLatch x).tickLatch = s.tickLatch := rfl
@[simp] theorem setFaultLatch_schedule (s : State) (x : Option Latched) : (s.setFaultLatch x).schedule = s.schedule := rfl
@[simp] theorem setFaultLatch_reply (s : State) (x : Option Latched) : (s.setFaultLatch x).reply = s.reply := rfl
@[simp] theorem setFaultLatch_stopPending (s : State) (x : Option Latched) : (s.setFaultLatch x).stopPending = s.stopPending := rfl
@[simp] theorem setFaultLatch_reg (s : State) (x : Option Latched) (r : Reg) : (s.setFaultLatch x).reg r = s.reg r := rfl
@[simp] theorem setFaultLatch_readByte (s : State) (x : Option Latched) (a : Nat) : (s.setFaultLatch x).readByte a = s.readByte a := rfl
@[simp] theorem setFaultLatch_cell (s : State) (x : Option Latched) (px py : Nat) : (s.setFaultLatch x).cell px py = s.cell px py := rfl
@[simp] theorem setFaultLatch_memBase (s : State) (x : Option Latched) : (s.setFaultLatch x).memBase = s.memBase := rfl

/-! ### setTickLatch -/

@[simp] theorem setTickLatch_params (s : State) (x : TickLatch) : (s.setTickLatch x).params = s.params := rfl
@[simp] theorem setTickLatch_v (s : State) (x : TickLatch) : (s.setTickLatch x).v = s.v := rfl
@[simp] theorem setTickLatch_i (s : State) (x : TickLatch) : (s.setTickLatch x).i = s.i := rfl
@[simp] theorem setTickLatch_pc (s : State) (x : TickLatch) : (s.setTickLatch x).pc = s.pc := rfl
@[simp] theorem setTickLatch_stack (s : State) (x : TickLatch) : (s.setTickLatch x).stack = s.stack := rfl
@[simp] theorem setTickLatch_dt (s : State) (x : TickLatch) : (s.setTickLatch x).dt = s.dt := rfl
@[simp] theorem setTickLatch_st (s : State) (x : TickLatch) : (s.setTickLatch x).st = s.st := rfl
@[simp] theorem setTickLatch_keys (s : State) (x : TickLatch) : (s.setTickLatch x).keys = s.keys := rfl
@[simp] theorem setTickLatch_display (s : State) (x : TickLatch) : (s.setTickLatch x).display = s.display := rfl
@[simp] theorem setTickLatch_mem (s : State) (x : TickLatch) : (s.setTickLatch x).mem = s.mem := rfl
@[simp] theorem setTickLatch_rng (s : State) (x : TickLatch) : (s.setTickLatch x).rng = s.rng := rfl
@[simp] theorem setTickLatch_frames (s : State) (x : TickLatch) : (s.setTickLatch x).frames = s.frames := rfl
@[simp] theorem setTickLatch_bc (s : State) (x : TickLatch) : (s.setTickLatch x).bc = s.bc := rfl
@[simp] theorem setTickLatch_runState (s : State) (x : TickLatch) : (s.setTickLatch x).runState = s.runState := rfl
@[simp] theorem setTickLatch_faultLatch (s : State) (x : TickLatch) : (s.setTickLatch x).faultLatch = s.faultLatch := rfl
@[simp] theorem setTickLatch_tickLatch (s : State) (x : TickLatch) : (s.setTickLatch x).tickLatch = x := rfl
@[simp] theorem setTickLatch_schedule (s : State) (x : TickLatch) : (s.setTickLatch x).schedule = s.schedule := rfl
@[simp] theorem setTickLatch_reply (s : State) (x : TickLatch) : (s.setTickLatch x).reply = s.reply := rfl
@[simp] theorem setTickLatch_stopPending (s : State) (x : TickLatch) : (s.setTickLatch x).stopPending = s.stopPending := rfl
@[simp] theorem setTickLatch_reg (s : State) (x : TickLatch) (r : Reg) : (s.setTickLatch x).reg r = s.reg r := rfl
@[simp] theorem setTickLatch_readByte (s : State) (x : TickLatch) (a : Nat) : (s.setTickLatch x).readByte a = s.readByte a := rfl
@[simp] theorem setTickLatch_cell (s : State) (x : TickLatch) (px py : Nat) : (s.setTickLatch x).cell px py = s.cell px py := rfl
@[simp] theorem setTickLatch_memBase (s : State) (x : TickLatch) : (s.setTickLatch x).memBase = s.memBase := rfl

/-! ### setSchedule -/

@[simp] theorem setSchedule_params (s : State) (x : List Move) : (s.setSchedule x).params = s.params := rfl
@[simp] theorem setSchedule_v (s : State) (x : List Move) : (s.setSchedule x).v = s.v := rfl
@[simp] theorem setSchedule_i (s : State) (x : List Move) : (s.setSchedule x).i = s.i := rfl
@[simp] theorem setSchedule_pc (s : State) (x : List Move) : (s.setSchedule x).pc = s.pc := rfl
@[simp] theorem setSchedule_stack (s : State) (x : List Move) : (s.setSchedule x).stack = s.stack := rfl
@[simp] theorem setSchedule_dt (s : State) (x : List Move) : (s.setSchedule x).dt = s.dt := rfl
@[simp] theorem setSchedule_st (s : State) (x : List Move) : (s.setSchedule x).st = s.st := rfl
@[simp] theorem setSchedule_keys (s : State) (x : List Move) : (s.setSchedule x).keys = s.keys := rfl
@[simp] theorem setSchedule_display (s : State) (x : List Move) : (s.setSchedule x).display = s.display := rfl
@[simp] theorem setSchedule_mem (s : State) (x : List Move) : (s.setSchedule x).mem = s.mem := rfl
@[simp] theorem setSchedule_rng (s : State) (x : List Move) : (s.setSchedule x).rng = s.rng := rfl
@[simp] theorem setSchedule_frames (s : State) (x : List Move) : (s.setSchedule x).frames = s.frames := rfl
@[simp] theorem setSchedule_bc (s : State) (x : List Move) : (s.setSchedule x).bc = s.bc := rfl
@[simp] theorem setSchedule_runState (s : State) (x : List Move) : (s.setSchedule x).runState = s.runState := rfl
@[simp] theorem setSchedule_faultLatch (s : State) (x : List Move) : (s.setSchedule x).faultLatch = s.faultLatch := rfl
@[simp] theorem setSchedule_tickLatch (s : State) (x : List Move) : (s.setSchedule x).tickLatch = s.tickLatch := rfl
@[simp] theorem setSchedule_schedule (s : State) (x : List Move) : (s.setSchedule x).schedule = x := rfl
@[simp] theorem setSchedule_reply (s : State) (x : List Move) : (s.setSchedule x).reply = s.reply := rfl
@[simp] theorem setSchedule_stopPending (s : State) (x : List Move) : (s.setSchedule x).stopPending = s.stopPending := rfl
@[simp] theorem setSchedule_reg (s : State) (x : List Move) (r : Reg) : (s.setSchedule x).reg r = s.reg r := rfl
@[simp] theorem setSchedule_readByte (s : State) (x : List Move) (a : Nat) : (s.setSchedule x).readByte a = s.readByte a := rfl
@[simp] theorem setSchedule_cell (s : State) (x : List Move) (px py : Nat) : (s.setSchedule x).cell px py = s.cell px py := rfl
@[simp] theorem setSchedule_memBase (s : State) (x : List Move) : (s.setSchedule x).memBase = s.memBase := rfl

/-! ### setReply -/

@[simp] theorem setReply_params (s : State) (x : Option HostReply) : (s.setReply x).params = s.params := rfl
@[simp] theorem setReply_v (s : State) (x : Option HostReply) : (s.setReply x).v = s.v := rfl
@[simp] theorem setReply_i (s : State) (x : Option HostReply) : (s.setReply x).i = s.i := rfl
@[simp] theorem setReply_pc (s : State) (x : Option HostReply) : (s.setReply x).pc = s.pc := rfl
@[simp] theorem setReply_stack (s : State) (x : Option HostReply) : (s.setReply x).stack = s.stack := rfl
@[simp] theorem setReply_dt (s : State) (x : Option HostReply) : (s.setReply x).dt = s.dt := rfl
@[simp] theorem setReply_st (s : State) (x : Option HostReply) : (s.setReply x).st = s.st := rfl
@[simp] theorem setReply_keys (s : State) (x : Option HostReply) : (s.setReply x).keys = s.keys := rfl
@[simp] theorem setReply_display (s : State) (x : Option HostReply) : (s.setReply x).display = s.display := rfl
@[simp] theorem setReply_mem (s : State) (x : Option HostReply) : (s.setReply x).mem = s.mem := rfl
@[simp] theorem setReply_rng (s : State) (x : Option HostReply) : (s.setReply x).rng = s.rng := rfl
@[simp] theorem setReply_frames (s : State) (x : Option HostReply) : (s.setReply x).frames = s.frames := rfl
@[simp] theorem setReply_bc (s : State) (x : Option HostReply) : (s.setReply x).bc = s.bc := rfl
@[simp] theorem setReply_runState (s : State) (x : Option HostReply) : (s.setReply x).runState = s.runState := rfl
@[simp] theorem setReply_faultLatch (s : State) (x : Option HostReply) : (s.setReply x).faultLatch = s.faultLatch := rfl
@[simp] theorem setReply_tickLatch (s : State) (x : Option HostReply) : (s.setReply x).tickLatch = s.tickLatch := rfl
@[simp] theorem setReply_schedule (s : State) (x : Option HostReply) : (s.setReply x).schedule = s.schedule := rfl
@[simp] theorem setReply_reply (s : State) (x : Option HostReply) : (s.setReply x).reply = x := rfl
@[simp] theorem setReply_stopPending (s : State) (x : Option HostReply) : (s.setReply x).stopPending = s.stopPending := rfl
@[simp] theorem setReply_reg (s : State) (x : Option HostReply) (r : Reg) : (s.setReply x).reg r = s.reg r := rfl
@[simp] theorem setReply_readByte (s : State) (x : Option HostReply) (a : Nat) : (s.setReply x).readByte a = s.readByte a := rfl
@[simp] theorem setReply_cell (s : State) (x : Option HostReply) (px py : Nat) : (s.setReply x).cell px py = s.cell px py := rfl
@[simp] theorem setReply_memBase (s : State) (x : Option HostReply) : (s.setReply x).memBase = s.memBase := rfl

/-! ### setStopPending -/

@[simp] theorem setStopPending_params (s : State) (x : Bool) : (s.setStopPending x).params = s.params := rfl
@[simp] theorem setStopPending_v (s : State) (x : Bool) : (s.setStopPending x).v = s.v := rfl
@[simp] theorem setStopPending_i (s : State) (x : Bool) : (s.setStopPending x).i = s.i := rfl
@[simp] theorem setStopPending_pc (s : State) (x : Bool) : (s.setStopPending x).pc = s.pc := rfl
@[simp] theorem setStopPending_stack (s : State) (x : Bool) : (s.setStopPending x).stack = s.stack := rfl
@[simp] theorem setStopPending_dt (s : State) (x : Bool) : (s.setStopPending x).dt = s.dt := rfl
@[simp] theorem setStopPending_st (s : State) (x : Bool) : (s.setStopPending x).st = s.st := rfl
@[simp] theorem setStopPending_keys (s : State) (x : Bool) : (s.setStopPending x).keys = s.keys := rfl
@[simp] theorem setStopPending_display (s : State) (x : Bool) : (s.setStopPending x).display = s.display := rfl
@[simp] theorem setStopPending_mem (s : State) (x : Bool) : (s.setStopPending x).mem = s.mem := rfl
@[simp] theorem setStopPending_rng (s : State) (x : Bool) : (s.setStopPending x).rng = s.rng := rfl
@[simp] theorem setStopPending_frames (s : State) (x : Bool) : (s.setStopPending x).frames = s.frames := rfl
@[simp] theorem setStopPending_bc (s : State) (x : Bool) : (s.setStopPending x).bc = s.bc := rfl
@[simp] theorem setStopPending_runState (s : State) (x : Bool) : (s.setStopPending x).runState = s.runState := rfl
@[simp] theorem setStopPending_faultLatch (s : State) (x : Bool) : (s.setStopPending x).faultLatch = s.faultLatch := rfl
@[simp] theorem setStopPending_tickLatch (s : State) (x : Bool) : (s.setStopPending x).tickLatch = s.tickLatch := rfl
@[simp] theorem setStopPending_schedule (s : State) (x : Bool) : (s.setStopPending x).schedule = s.schedule := rfl
@[simp] theorem setStopPending_reply (s : State) (x : Bool) : (s.setStopPending x).reply = s.reply := rfl
@[simp] theorem setStopPending_stopPending (s : State) (x : Bool) : (s.setStopPending x).stopPending = x := rfl
@[simp] theorem setStopPending_reg (s : State) (x : Bool) (r : Reg) : (s.setStopPending x).reg r = s.reg r := rfl
@[simp] theorem setStopPending_readByte (s : State) (x : Bool) (a : Nat) : (s.setStopPending x).readByte a = s.readByte a := rfl
@[simp] theorem setStopPending_cell (s : State) (x : Bool) (px py : Nat) : (s.setStopPending x).cell px py = s.cell px py := rfl
@[simp] theorem setStopPending_memBase (s : State) (x : Bool) : (s.setStopPending x).memBase = s.memBase := rfl

/-! ### setReg -/

@[simp] theorem setReg_params (s : State) (x : Reg) (b : Byte) : (s.setReg x b).params = s.params := rfl
@[simp] theorem setReg_i (s : State) (x : Reg) (b : Byte) : (s.setReg x b).i = s.i := rfl
@[simp] theorem setReg_pc (s : State) (x : Reg) (b : Byte) : (s.setReg x b).pc = s.pc := rfl
@[simp] theorem setReg_stack (s : State) (x : Reg) (b : Byte) : (s.setReg x b).stack = s.stack := rfl
@[simp] theorem setReg_dt (s : State) (x : Reg) (b : Byte) : (s.setReg x b).dt = s.dt := rfl
@[simp] theorem setReg_st (s : State) (x : Reg) (b : Byte) : (s.setReg x b).st = s.st := rfl
@[simp] theorem setReg_keys (s : State) (x : Reg) (b : Byte) : (s.setReg x b).keys = s.keys := rfl
@[simp] theorem setReg_display (s : State) (x : Reg) (b : Byte) : (s.setReg x b).display = s.display := rfl
@[simp] theorem setReg_mem (s : State) (x : Reg) (b : Byte) : (s.setReg x b).mem = s.mem := rfl
@[simp] theorem setReg_rng (s : State) (x : Reg) (b : Byte) : (s.setReg x b).rng = s.rng := rfl
@[simp] theorem setReg_frames (s : State) (x : Reg) (b : Byte) : (s.setReg x b).frames = s.frames := rfl
@[simp] theorem setReg_bc (s : State) (x : Reg) (b : Byte) : (s.setReg x b).bc = s.bc := rfl
@[simp] theorem setReg_runState (s : State) (x : Reg) (b : Byte) : (s.setReg x b).runState = s.runState := rfl
@[simp] theorem setReg_faultLatch (s : State) (x : Reg) (b : Byte) : (s.setReg x b).faultLatch = s.faultLatch := rfl
@[simp] theorem setReg_tickLatch (s : State) (x : Reg) (b : Byte) : (s.setReg x b).tickLatch = s.tickLatch := rfl
@[simp] theorem setReg_schedule (s : State) (x : Reg) (b : Byte) : (s.setReg x b).schedule = s.schedule := rfl
@[simp] theorem setReg_reply (s : State) (x : Reg) (b : Byte) : (s.setReg x b).reply = s.reply := rfl
@[simp] theorem setReg_stopPending (s : State) (x : Reg) (b : Byte) : (s.setReg x b).stopPending = s.stopPending := rfl
@[simp] theorem setReg_readByte (s : State) (x : Reg) (b : Byte) (k : Nat) : (s.setReg x b).readByte k = s.readByte k := rfl
@[simp] theorem setReg_cell (s : State) (x : Reg) (b : Byte) (px py : Nat) : (s.setReg x b).cell px py = s.cell px py := rfl
@[simp] theorem setReg_memBase (s : State) (x : Reg) (b : Byte) : (s.setReg x b).memBase = s.memBase := rfl

/-! ### writeBytes -/

@[simp] theorem writeBytes_params (s : State) (a : Nat) (bs : List Byte) : (s.writeBytes a bs).params = s.params := rfl
@[simp] theorem writeBytes_v (s : State) (a : Nat) (bs : List Byte) : (s.writeBytes a bs).v = s.v := rfl
@[simp] theorem writeBytes_i (s : State) (a : Nat) (bs : List Byte) : (s.writeBytes a bs).i = s.i := rfl
@[simp] theorem writeBytes_pc (s : State) (a : Nat) (bs : List Byte) : (s.writeBytes a bs).pc = s.pc := rfl
@[simp] theorem writeBytes_stack (s : State) (a : Nat) (bs : List Byte) : (s.writeBytes a bs).stack = s.stack := rfl
@[simp] theorem writeBytes_dt (s : State) (a : Nat) (bs : List Byte) : (s.writeBytes a bs).dt = s.dt := rfl
@[simp] theorem writeBytes_st (s : State) (a : Nat) (bs : List Byte) : (s.writeBytes a bs).st = s.st := rfl
@[simp] theorem writeBytes_keys (s : State) (a : Nat) (bs : List Byte) : (s.writeBytes a bs).keys = s.keys := rfl
@[simp] theorem writeBytes_display (s : State) (a : Nat) (bs : List Byte) : (s.writeBytes a bs).display = s.display := rfl
@[simp] theorem writeBytes_rng (s : State) (a : Nat) (bs : List Byte) : (s.writeBytes a bs).rng = s.rng := rfl
@[simp] theorem writeBytes_frames (s : State) (a : Nat) (bs : List Byte) : (s.writeBytes a bs).frames = s.frames := rfl
@[simp] theorem writeBytes_bc (s : State) (a : Nat) (bs : List Byte) : (s.writeBytes a bs).bc = s.bc := rfl
@[simp] theorem writeBytes_runState (s : State) (a : Nat) (bs : List Byte) : (s.writeBytes a bs).runState = s.runState := rfl
@[simp] theorem writeBytes_faultLatch (s : State) (a : Nat) (bs : List Byte) : (s.writeBytes a bs).faultLatch = s.faultLatch := rfl
@[simp] theorem writeBytes_tickLatch (s : State) (a : Nat) (bs : List Byte) : (s.writeBytes a bs).tickLatch = s.tickLatch := rfl
@[simp] theorem writeBytes_schedule (s : State) (a : Nat) (bs : List Byte) : (s.writeBytes a bs).schedule = s.schedule := rfl
@[simp] theorem writeBytes_reply (s : State) (a : Nat) (bs : List Byte) : (s.writeBytes a bs).reply = s.reply := rfl
@[simp] theorem writeBytes_stopPending (s : State) (a : Nat) (bs : List Byte) : (s.writeBytes a bs).stopPending = s.stopPending := rfl
@[simp] theorem writeBytes_reg (s : State) (a : Nat) (bs : List Byte) (r : Reg) : (s.writeBytes a bs).reg r = s.reg r := rfl
@[simp] theorem writeBytes_cell (s : State) (a : Nat) (bs : List Byte) (px py : Nat) : (s.writeBytes a bs).cell px py = s.cell px py := rfl
@[simp] theorem writeBytes_memBase (s : State) (a : Nat) (bs : List Byte) : (s.writeBytes a bs).memBase = s.memBase := rfl

/-! ### The compound updates, as the setters they are made of -/

@[simp] theorem advance_eq (s : State) : s.advance = s.setPc (s.pc + 2) := rfl
@[simp] theorem skipIf_eq (s : State) (c : Bool) : s.skipIf c = s.setPc (if c then s.pc + 4 else s.pc + 2) := rfl
@[simp] theorem push_eq (s : State) (a : Word) : s.push a = s.setStack (a :: s.stack) := rfl
@[simp] theorem raise_eq (s : State) (c : FaultCode) (w : Word) :
    s.raise c w = (s.setFaultLatch (some ⟨c, w⟩)).setRunState .stopped := rfl
@[simp] theorem answer_eq (s : State) (r : HostReply) : s.answer r = s.setReply (some r) := rfl
@[simp] theorem setVF_eq (s : State) (f : Bool) : s.setVF f = s.setReg vF (flagByte f) := rfl
@[simp] theorem setResultAndFlag_eq (s : State) (x : Reg) (r : Byte) (f : Bool) :
    s.setResultAndFlag x r f = (s.setReg x r).setReg vF (flagByte f) := rfl

/-! ### stopReturns -/

/-- A Stop that waited returns with `done`. -/
theorem stopReturns_of_pending {s : State} (h : s.stopPending = true) :
    s.stopReturns = (s.setStopPending false).setReply (some .done) := if_pos h

/-- Without a Stop that waits nothing changes. -/
theorem stopReturns_of_not_pending {s : State} (h : s.stopPending = false) : s.stopReturns = s :=
  if_neg (by rw [h]; exact Bool.false_ne_true)

@[simp] theorem stopReturns_stopPending (s : State) : s.stopReturns.stopPending = false := by
  unfold stopReturns
  split
  · rfl
  · simp_all

@[simp] theorem stopReturns_params (s : State) : s.stopReturns.params = s.params := by unfold stopReturns; split <;> rfl
@[simp] theorem stopReturns_v (s : State) : s.stopReturns.v = s.v := by unfold stopReturns; split <;> rfl
@[simp] theorem stopReturns_i (s : State) : s.stopReturns.i = s.i := by unfold stopReturns; split <;> rfl
@[simp] theorem stopReturns_pc (s : State) : s.stopReturns.pc = s.pc := by unfold stopReturns; split <;> rfl
@[simp] theorem stopReturns_stack (s : State) : s.stopReturns.stack = s.stack := by unfold stopReturns; split <;> rfl
@[simp] theorem stopReturns_dt (s : State) : s.stopReturns.dt = s.dt := by unfold stopReturns; split <;> rfl
@[simp] theorem stopReturns_st (s : State) : s.stopReturns.st = s.st := by unfold stopReturns; split <;> rfl
@[simp] theorem stopReturns_keys (s : State) : s.stopReturns.keys = s.keys := by unfold stopReturns; split <;> rfl
@[simp] theorem stopReturns_display (s : State) : s.stopReturns.display = s.display := by unfold stopReturns; split <;> rfl
@[simp] theorem stopReturns_mem (s : State) : s.stopReturns.mem = s.mem := by unfold stopReturns; split <;> rfl
@[simp] theorem stopReturns_rng (s : State) : s.stopReturns.rng = s.rng := by unfold stopReturns; split <;> rfl
@[simp] theorem stopReturns_frames (s : State) : s.stopReturns.frames = s.frames := by unfold stopReturns; split <;> rfl
@[simp] theorem stopReturns_bc (s : State) : s.stopReturns.bc = s.bc := by unfold stopReturns; split <;> rfl
@[simp] theorem stopReturns_runState (s : State) : s.stopReturns.runState = s.runState := by unfold stopReturns; split <;> rfl
@[simp] theorem stopReturns_faultLatch (s : State) : s.stopReturns.faultLatch = s.faultLatch := by unfold stopReturns; split <;> rfl
@[simp] theorem stopReturns_tickLatch (s : State) : s.stopReturns.tickLatch = s.tickLatch := by unfold stopReturns; split <;> rfl
@[simp] theorem stopReturns_schedule (s : State) : s.stopReturns.schedule = s.schedule := by unfold stopReturns; split <;> rfl
@[simp] theorem stopReturns_reg (s : State) (r : Reg) : s.stopReturns.reg r = s.reg r := by unfold stopReturns; split <;> rfl
@[simp] theorem stopReturns_readByte (s : State) (a : Nat) : s.stopReturns.readByte a = s.readByte a := by unfold stopReturns; split <;> rfl
@[simp] theorem stopReturns_cell (s : State) (px py : Nat) : s.stopReturns.cell px py = s.cell px py := by unfold stopReturns; split <;> rfl
@[simp] theorem stopReturns_memBase (s : State) : s.stopReturns.memBase = s.memBase := by unfold stopReturns; split <;> rfl

/-! ### Registers -/

/-- A register reads as what was last written to it; the others keep their values (10_state.md R20). -/
theorem reg_setReg (s : State) (x r : Reg) (b : Byte) : (s.setReg x b).reg r = if r = x then b else s.reg r := by
  by_cases h : r = x
  · subst h; simp [reg, setReg]
  · have : x.val ≠ r.val := fun e => h (Fin.ext e.symm)
    simp [reg, setReg, h, this]

@[simp] theorem reg_setReg_self (s : State) (x : Reg) (b : Byte) : (s.setReg x b).reg x = b := by simp [reg_setReg]

@[simp] theorem reg_setReg_ne (s : State) {x r : Reg} (h : r ≠ x) (b : Byte) : (s.setReg x b).reg r = s.reg r := by
  simp [reg_setReg, h]

/-- Two register files that agree on every register are equal. -/
theorem v_ext {s t : State} (h : ∀ r, s.reg r = t.reg r) : s.v = t.v :=
  Vector.ext fun k hk => h ⟨k, hk⟩

/-- What `Fx65` leaves in each register: the bytes from `base` on up to `Vx`, the old values above (43_index_memory.md
R165). -/
theorem reg_setV_regsLoadedFrom (s : State) (base : Nat) (x r : Reg) :
    (s.setV (s.regsLoadedFrom base x)).reg r = if r ≤ x then s.readByte (base + r.val) else s.reg r := by
  simp [reg, regsLoadedFrom]

end Sys2Proof.Machine.State
end

