-- ==== Sys2Proof/Laws/Memory.lean ====
section
/-! SUPPORT. The laws of memory: a read after a write, and the canonical form that every operation keeps
(20_memory.md R59). -/

namespace Sys2Proof.Machine

namespace Memory

variable {base : Nat → Byte} {m : List Host.Cell}

@[simp] theorem drop_nil (a : Nat) : drop [] a = [] := rfl

theorem drop_cons (c : Host.Cell) (a : Nat) : drop (c :: m) a = if c.1 = a then drop m a else c :: drop m a := by
  by_cases h : c.1 = a <;> simp [drop, h]

theorem read_drop (a k : Nat) : read base (drop m a) k = if k = a then base a else read base m k := by
  induction m with
  | nil => by_cases hk : k = a <;> simp [read, hk]
  | cons c m ih =>
    obtain ⟨j, v⟩ := c
    rw [drop_cons]
    by_cases hj : j = a
    · subst hj
      by_cases hk : k = j
      · simpa [hk] using ih
      · simp [read, ih, hk, Ne.symm hk]
    · by_cases hk : j = k
      · subst hk; simp [read, hj]
      · simp [read, hj, hk, ih]

theorem read_insert (a k : Nat) (b : Byte) (h : ∀ c ∈ m, c.1 ≠ a) :
    read base (insert m a b) k = if k = a then b else read base m k := by
  induction m with
  | nil =>
    by_cases hk : k = a
    · simp [insert, read, hk]
    · simp [insert, read, hk, Ne.symm hk]
  | cons c m ih =>
    obtain ⟨j, v⟩ := c
    have hj : j ≠ a := h _ (List.mem_cons_self ..)
    have ih := ih fun c hc => h c (List.mem_cons_of_mem _ hc)
    by_cases ha : a < j
    · by_cases hk : k = a
      · simp [insert, read, ha, hk]
      · simp [insert, read, ha, hk, Ne.symm hk]
    · by_cases hk : j = k
      · subst hk; simp [insert, read, ha, hj]
      · simp [insert, read, ha, hk, ih]

theorem key_ne_of_mem_drop (a : Nat) : ∀ c ∈ drop m a, c.1 ≠ a := by
  intro c hc; simpa using (List.mem_filter.mp hc).2

/-- A read after a write: the byte written at its address, the old byte everywhere else; a write past the end of memory
changes nothing (20_memory.md R50, R59). -/
theorem read_write (a k : Nat) (b : Byte) :
    read base (write base m a b) k = if k = a ∧ a < Config.memSize then b else read base m k := by
  by_cases ha : a < Config.memSize
  · by_cases hb : b = base a
    · simp only [write, ha, put, hb, if_true, and_true, read_drop]
    · simp only [write, ha, put, hb, if_true, if_false, and_true]
      rw [read_insert _ _ _ (key_ne_of_mem_drop a), read_drop]
      by_cases hk : k = a <;> simp [hk]
  · simp [write, ha]

/-- A read after a run of stores: inside the run the byte stored there, outside it the old byte. -/
theorem read_writeList (bs : List Byte) (m : List Host.Cell) (a k : Nat) :
    read base (writeList base m a bs) k =
      if a ≤ k ∧ k < a + bs.length ∧ k < Config.memSize then bs.getD (k - a) 0 else read base m k := by
  induction bs generalizing m a with
  | nil => simp [writeList]; omega
  | cons b bs ih =>
    rw [writeList, ih, read_write]
    simp only [List.length_cons]
    by_cases h1 : a + 1 ≤ k
    · have : k - a = (k - (a + 1)) + 1 := by omega
      have h2 : k ≠ a := by omega
      simp only [h1, this, List.getD_cons_succ, h2, false_and, if_false, true_and]
      exact if_congr (by omega) rfl rfl
    · by_cases h2 : k = a
      · subst h2
        by_cases h3 : k < Config.memSize <;> simp [h3]
      · simp only [h1, h2, false_and, if_false]
        rw [if_neg (by omega)]

/-! ### The canonical form -/

theorem wfFrom_mono {lo lo' : Nat} (h : lo' ≤ lo) : ∀ {m : List Host.Cell}, wfFrom base lo m = true →
    wfFrom base lo' m = true
  | [], _ => rfl
  | (k, v) :: m, hm => by
    simp only [wfFrom, Bool.and_eq_true, decide_eq_true_eq] at hm ⊢
    exact ⟨⟨⟨by omega, hm.1.1.2⟩, hm.1.2⟩, hm.2⟩

theorem wfFrom_drop (a : Nat) : ∀ {m : List Host.Cell} {lo : Nat}, wfFrom base lo m = true →
    wfFrom base lo (drop m a) = true
  | [], _, _ => rfl
  | (k, v) :: m, lo, hm => by
    simp only [wfFrom, Bool.and_eq_true, decide_eq_true_eq] at hm
    have ih := wfFrom_drop a hm.2
    by_cases hk : k = a
    · have : drop ((k, v) :: m) a = drop m a := by simp [drop, hk]
      rw [this]
      exact wfFrom_mono (by omega) ih
    · have : drop ((k, v) :: m) a = (k, v) :: drop m a := by simp [drop, hk]
      rw [this]
      simp only [wfFrom, Bool.and_eq_true, decide_eq_true_eq]
      exact ⟨hm.1, ih⟩

theorem wfFrom_insert {a : Nat} {b : Byte} (ha : a < Config.memSize) (hb : b ≠ base a) :
    ∀ {m : List Host.Cell} {lo : Nat}, wfFrom base lo m = true → lo ≤ a → (∀ c ∈ m, c.1 ≠ a) →
      wfFrom base lo (insert m a b) = true
  | [], lo, _, hlo, _ => by simp [insert, wfFrom, hlo, hb]; exact ha
  | (k, v) :: m, lo, hm, hlo, hne => by
    simp only [wfFrom, Bool.and_eq_true, decide_eq_true_eq] at hm
    have hk : k ≠ a := hne _ (List.mem_cons_self ..)
    by_cases h : a < k
    · simp only [insert, h, if_true, wfFrom, Bool.and_eq_true, decide_eq_true_eq]
      exact ⟨⟨⟨hlo, ha⟩, hb⟩, ⟨⟨⟨h, hm.1.1.2⟩, hm.1.2⟩, hm.2⟩⟩
    · have ih := wfFrom_insert ha hb hm.2 (show k + 1 ≤ a by omega) fun c hc => hne c (List.mem_cons_of_mem _ hc)
      simp only [insert, h, if_false, wfFrom, Bool.and_eq_true, decide_eq_true_eq]
      exact ⟨hm.1, ih⟩

/-- A write keeps the canonical form. -/
theorem wf_write (a : Nat) (b : Byte) (h : wf base m = true) : wf base (write base m a b) = true := by
  unfold wf at *
  by_cases ha : a < Config.memSize
  · by_cases hb : b = base a
    · simpa only [write, ha, put, hb, if_true] using wfFrom_drop a h
    · simpa only [write, ha, put, hb, if_true, if_false] using
        wfFrom_insert ha hb (wfFrom_drop a h) (Nat.zero_le _) (key_ne_of_mem_drop a)
  · simpa only [write, ha, if_false] using h

/-- A run of stores keeps the canonical form. -/
theorem wf_writeList (bs : List Byte) : ∀ (m : List Host.Cell) (a : Nat), wf base m = true →
    wf base (writeList base m a bs) = true := by
  induction bs with
  | nil => intro m a h; exact h
  | cons b bs ih => intro m a h; exact ih _ _ (wf_write a b h)

theorem read_of_lt : ∀ {m : List Host.Cell} {lo k : Nat}, wfFrom base lo m = true → k < lo → read base m k = base k
  | [], _, _, _, _ => rfl
  | (j, v) :: m, lo, k, hm, hk => by
    simp only [wfFrom, Bool.and_eq_true, decide_eq_true_eq] at hm
    have : j ≠ k := by omega
    simpa only [read, this, if_false] using read_of_lt hm.2 (by omega)

/-- Memories in the canonical form that read the same everywhere are the same list. -/
theorem ext_of_wfFrom : ∀ {m m' : List Host.Cell} {lo lo' : Nat}, wfFrom base lo m = true → wfFrom base lo' m' = true →
    (∀ k, read base m k = read base m' k) → m = m'
  | [], [], _, _, _, _, _ => rfl
  | [], (j, v) :: m', lo, lo', _, h', e => by
    simp only [wfFrom, Bool.and_eq_true, decide_eq_true_eq] at h'
    have := e j
    simp [read] at this
    exact absurd this.symm h'.1.2
  | (j, v) :: m, [], lo, lo', h, _, e => by
    simp only [wfFrom, Bool.and_eq_true, decide_eq_true_eq] at h
    have := e j
    simp [read] at this
    exact absurd this h.1.2
  | (j, v) :: m, (j', v') :: m', lo, lo', h, h', e => by
    have hj : j = j' := by
      simp only [wfFrom, Bool.and_eq_true, decide_eq_true_eq] at h h'
      rcases Nat.lt_trichotomy j j' with hlt | heq | hgt
      · have e1 := e j
        have : j' ≠ j := by omega
        simp only [read, if_true, this, if_false] at e1
        rw [read_of_lt h'.2 (by omega)] at e1
        exact absurd e1 h.1.2
      · exact heq
      · have e1 := e j'
        have : j ≠ j' := by omega
        simp only [read, if_true, this, if_false] at e1
        rw [read_of_lt h.2 (by omega)] at e1
        exact absurd e1.symm h'.1.2
    subst hj
    simp only [wfFrom, Bool.and_eq_true, decide_eq_true_eq] at h h'
    have hv : v = v' := by have := e j; simpa [read] using this
    subst hv
    congr 1
    refine ext_of_wfFrom h.2 h'.2 fun k => ?_
    by_cases hk : j = k
    · subst hk; rw [read_of_lt h.2 (by omega), read_of_lt h'.2 (by omega)]
    · have := e k; simpa [read, hk] using this

end Memory

namespace State

/-- A byte after a run of stores (20_memory.md R55, R59). -/
theorem readByte_writeBytes (s : State) (a k : Nat) (bs : List Byte) :
    (s.writeBytes a bs).readByte k =
      if a ≤ k ∧ k < a + bs.length ∧ k < Config.memSize then bs.getD (k - a) 0 else s.readByte k := by
  simp only [readByte, writeBytes, setMem_memBase, setMem_mem, Memory.read_writeList]

/-- Outside the stored bytes every byte reads as before. -/
theorem readByte_writeBytes_outside (s : State) {a k : Nat} {bs : List Byte} (h : k < a ∨ a + bs.length ≤ k) :
    (s.writeBytes a bs).readByte k = s.readByte k := by
  rw [readByte_writeBytes, if_neg (by omega)]

/-- Inside the stored bytes the `k`-th stored byte reads back. -/
theorem readByte_writeBytes_at (s : State) {a k : Nat} {bs : List Byte} (h : k < bs.length) (hm : a + k < 4096) :
    (s.writeBytes a bs).readByte (a + k) = bs[k] := by
  rw [readByte_writeBytes, if_pos ⟨by omega, by omega, hm⟩, Nat.add_sub_cancel_left, List.getD_eq_getElem _ _ h]

/-- The canonical form of this machine's memory. -/
theorem wf_writeBytes (s : State) (a : Nat) (bs : List Byte) (h : Memory.wf s.memBase s.mem = true) :
    Memory.wf (s.writeBytes a bs).memBase (s.writeBytes a bs).mem = true := by
  simpa only [writeBytes, setMem_memBase, setMem_mem] using Memory.wf_writeList bs s.mem a h

@[simp] theorem length_readBytes (s : State) (a n : Nat) : (s.readBytes a n).length = n := by simp [readBytes]

/-- The `k`-th byte of a range read (20_memory.md R55). -/
theorem getD_readBytes (s : State) (a : Nat) {n k : Nat} (h : k < n) :
    (s.readBytes a n).getD k 0 = s.readByte (a + k) := by simp [readBytes, h]

@[simp] theorem length_regsUpTo (s : State) (x : Reg) : (s.regsUpTo x).length = x.val + 1 := by
  simp [regsUpTo]

/-- The `k`-th byte that `Fx55` stores is `Vk` (43_index_memory.md R164). -/
theorem getD_regsUpTo (s : State) (x : Reg) {k : Nat} (h : k ≤ x.val) :
    (s.regsUpTo x).getD k 0 = s.reg ⟨k, by omega⟩ := by
  have hk : k < s.v.toList.length := by simp; omega
  have h2 : k < (s.regsUpTo x).length := by simp; omega
  rw [List.getD_eq_getElem _ _ h2]
  simp [regsUpTo, reg]

end State
end Sys2Proof.Machine
end

