-- ==== Sys2Proof/Laws/Operands.lean ====
section
/-! SUPPORT. What the operand forms can be: the range check, key codes, the digits (20_memory.md R56, 45_keypad.md R202,
43_index_memory.md R163). -/

namespace Sys2Proof.Machine

/-- The check passes exactly on the ranges that stay in memory (R56). -/
theorem firstBadAddress_eq_none {base : Word} {n : Nat} :
    firstBadAddress base n = none ↔ n = 0 ∨ base.toNat + n ≤ 0x1000 := by
  unfold firstBadAddress
  simp only [Config.memSize]
  split <;> simp <;> omega

/-- A range that leaves memory is refused with the first address above 0xFFF that it reaches (R56). -/
theorem firstBadAddress_eq_some {base : Word} {n : Nat} (h0 : 0 < n) (h : 0x1000 < base.toNat + n) :
    firstBadAddress base n = some (BitVec.ofNat 16 (max base.toNat 0x1000)) := by
  unfold firstBadAddress
  rw [if_pos ⟨h0, h⟩]

@[simp] theorem length_bcdDigits (b : Byte) : (bcdDigits b).length = 3 := rfl

/-- No key is down exactly when the mask is zero (45_keypad.md R202). -/
theorem lowestKey_eq_none {keys : BitVec 16} : lowestKey keys = none ↔ keys = 0#16 := by
  unfold lowestKey
  rw [List.find?_eq_none]
  constructor
  · intro h
    apply BitVec.eq_of_getLsbD_eq
    intro k hk
    have := h k (List.mem_range.mpr hk)
    simpa [keyDown, show k ≤ 15 by omega] using this
  · rintro rfl k _
    simp [keyDown]

/-- The stored key is down and none below it is (45_keypad.md R202). -/
theorem lowestKey_eq_some {keys : BitVec 16} {k : Nat} (h : lowestKey keys = some k) :
    k < 16 ∧ keys.getLsbD k = true ∧ ∀ j < k, keys.getLsbD j = false := by
  unfold lowestKey at h
  rw [List.find?_range_eq_some] at h
  obtain ⟨h1, h2, h3⟩ := h
  have h2 := List.mem_range.mp h2
  simp only [keyDown, Bool.and_eq_true, decide_eq_true_eq] at h1
  refine ⟨h2, h1.2, fun j hj => ?_⟩
  have := h3 j hj
  simpa [keyDown, show j ≤ 15 by omega] using this

end Sys2Proof.Machine
end

