-- ==== Sys2Proof/Laws/Exec.lean ====
section
/-! SUPPORT. Once, what an instruction, an Engine step and a step can do (40_execution_cycle.md R90 to R99): the
inversion lemmas that proofs cite instead of unfolding the meanings. -/

namespace Sys2Proof.Machine

/-- What no instruction writes: everything of the machine's control but the program counter. -/
structure SameControl (s t : State) : Prop where
  params : t.params = s.params
  keys : t.keys = s.keys
  frames : t.frames = s.frames
  bc : t.bc = s.bc
  runState : t.runState = s.runState
  faultLatch : t.faultLatch = s.faultLatch
  tickLatch : t.tickLatch = s.tickLatch
  schedule : t.schedule = s.schedule
  reply : t.reply = s.reply
  stopPending : t.stopPending = s.stopPending

/-- The faults an instruction can raise (60_exceptions.md R230). -/
abbrev FaultCode.OfExecute (c : FaultCode) : Prop :=
  c = .stackUnderflow ∨ c = .stackOverflow ∨ c = .addressOutOfRange

namespace SameControl

variable {s t : State}

theorem refl (s : State) : SameControl s s := ⟨rfl, rfl, rfl, rfl, rfl, rfl, rfl, rfl, rfl, rfl⟩

theorem setPc (h : SameControl s t) (a : Word) : SameControl s (t.setPc a) :=
  ⟨h.1, h.2, h.3, h.4, h.5, h.6, h.7, h.8, h.9, h.10⟩
theorem setI (h : SameControl s t) (a : Word) : SameControl s (t.setI a) :=
  ⟨h.1, h.2, h.3, h.4, h.5, h.6, h.7, h.8, h.9, h.10⟩
theorem setV (h : SameControl s t) (v : Vector Byte 16) : SameControl s (t.setV v) :=
  ⟨h.1, h.2, h.3, h.4, h.5, h.6, h.7, h.8, h.9, h.10⟩
theorem setReg (h : SameControl s t) (x : Reg) (b : Byte) : SameControl s (t.setReg x b) := h.setV _
theorem setStack (h : SameControl s t) (l : List Word) : SameControl s (t.setStack l) :=
  ⟨h.1, h.2, h.3, h.4, h.5, h.6, h.7, h.8, h.9, h.10⟩
theorem setDt (h : SameControl s t) (b : Byte) : SameControl s (t.setDt b) :=
  ⟨h.1, h.2, h.3, h.4, h.5, h.6, h.7, h.8, h.9, h.10⟩
theorem setSt (h : SameControl s t) (b : Byte) : SameControl s (t.setSt b) :=
  ⟨h.1, h.2, h.3, h.4, h.5, h.6, h.7, h.8, h.9, h.10⟩
theorem setRng (h : SameControl s t) (k : Nat) : SameControl s (t.setRng k) :=
  ⟨h.1, h.2, h.3, h.4, h.5, h.6, h.7, h.8, h.9, h.10⟩
theorem setMem (h : SameControl s t) (m : List Host.Cell) : SameControl s (t.setMem m) :=
  ⟨h.1, h.2, h.3, h.4, h.5, h.6, h.7, h.8, h.9, h.10⟩
theorem setDisplay (h : SameControl s t) (d : Display) : SameControl s (t.setDisplay d) :=
  ⟨h.1, h.2, h.3, h.4, h.5, h.6, h.7, h.8, h.9, h.10⟩

end SameControl

/-- What a meaning answers, seen once: a fault of the execute stage taken, or a next state with the same control. -/
def Answers (s : State) (o : Host.Outcome State Fault Refusal) : Prop :=
  (∃ c w, FaultCode.OfExecute c ∧ o = .next (s.raise c w)) ∨ ∃ t, o = .next t ∧ SameControl s t

theorem Answers.ofNext {s t : State} (h : SameControl s t) : Answers s (.next t) := .inr ⟨t, rfl, h⟩

/-- Every meaning answers so (40_execution_cycle.md R94). -/
theorem exec_answers (i : Instr) (s : State) : Answers s (exec i s) := by
  have r := SameControl.refl s
  cases i with
  | cls => exact .ofNext ((r.setDisplay _).setPc _)
  | ret =>
    show Answers s (execRet s)
    unfold execRet
    split
    · exact .inl ⟨_, _, .inl rfl, rfl⟩
    · exact .ofNext ((r.setStack _).setPc _)
  | jp => exact .ofNext (r.setPc _)
  | call nnn =>
    show Answers s (execCall nnn s)
    unfold execCall
    split
    · exact .inl ⟨_, _, .inr (.inl rfl), rfl⟩
    · exact .ofNext ((r.setStack _).setPc _)
  | seImm | sneImm | seReg | sneReg | jpV0 | skp | sknp => exact .ofNext (r.setPc _)
  | ldImm | addImm | ldReg | orReg | andReg | xorReg | ldFromDt => exact .ofNext ((r.setReg _ _).setPc _)
  | addReg | subReg | shrReg | subnReg | shlReg => exact .ofNext (((r.setReg _ _).setReg _ _).setPc _)
  | ldI | addI | ldFont => exact .ofNext ((r.setI _).setPc _)
  | rnd => exact .ofNext (((r.setReg _ _).setRng _).setPc _)
  | ldToDt => exact .ofNext ((r.setDt _).setPc _)
  | ldToSt => exact .ofNext ((r.setSt _).setPc _)
  | drw x y n =>
    show Answers s (execDrw x y n s)
    unfold execDrw
    split
    · exact .inl ⟨_, _, .inr (.inr rfl), rfl⟩
    · exact .ofNext (((r.setDisplay _).setReg _ _).setPc _)
  | ldKey x =>
    show Answers s (execLdKey x s)
    unfold execLdKey
    split
    · exact .ofNext r
    · exact .ofNext ((r.setReg _ _).setPc _)
  | ldBcd x =>
    show Answers s (execLdBcd x s)
    unfold execLdBcd
    split
    · exact .inl ⟨_, _, .inr (.inr rfl), rfl⟩
    · exact .ofNext ((r.setMem _).setPc _)
  | storeRegs x =>
    show Answers s (execStoreRegs x s)
    unfold execStoreRegs
    split
    · exact .inl ⟨_, _, .inr (.inr rfl), rfl⟩
    · exact .ofNext ((r.setMem _).setPc _)
  | loadRegs x =>
    show Answers s (execLoadRegs x s)
    unfold execLoadRegs
    split
    · exact .inl ⟨_, _, .inr (.inr rfl), rfl⟩
    · exact .ofNext ((r.setV _).setPc _)

/-- An instruction answers a next state: no meaning stops the machine. -/
theorem exec_next (i : Instr) (s : State) : ∃ t, exec i s = .next t := by
  rcases exec_answers i s with ⟨c, w, -, h⟩ | ⟨t, h, -⟩ <;> exact ⟨_, h⟩

/-- An instruction either takes a fault, and then changes nothing else, or leaves all of the control state alone
(40_execution_cycle.md R94, R98). -/
theorem exec_cases {i : Instr} {s t : State} (h : exec i s = .next t) :
    (∃ c w, FaultCode.OfExecute c ∧ t = s.raise c w) ∨ SameControl s t := by
  rcases exec_answers i s with ⟨c, w, hc, e⟩ | ⟨u, e, hu⟩
  · exact .inl ⟨c, w, hc, by rw [h] at e; cases e; rfl⟩
  · exact .inr (by rw [h] at e; cases e; exact hu)

/-- What an instruction does to memory: nothing, or one run of stores (43_index_memory.md R163, R164). -/
theorem exec_memory {i : Instr} {s t : State} (h : exec i s = .next t) :
    t.mem = s.mem ∨ ∃ a bs, t.mem = (s.writeBytes a bs).mem := by
  cases i with
  | ret =>
    change execRet s = _ at h
    unfold execRet at h
    split at h <;> cases h <;> exact .inl rfl
  | call nnn =>
    change execCall nnn s = _ at h
    unfold execCall at h
    split at h <;> cases h <;> exact .inl rfl
  | drw x y n =>
    change execDrw x y n s = _ at h
    unfold execDrw at h
    split at h <;> cases h <;> exact .inl rfl
  | ldKey x =>
    change execLdKey x s = _ at h
    unfold execLdKey at h
    split at h <;> cases h <;> exact .inl rfl
  | ldBcd x =>
    change execLdBcd x s = _ at h
    unfold execLdBcd at h
    split at h <;> cases h
    · exact .inl rfl
    · exact .inr ⟨_, _, rfl⟩
  | storeRegs x =>
    change execStoreRegs x s = _ at h
    unfold execStoreRegs at h
    split at h <;> cases h
    · exact .inl rfl
    · exact .inr ⟨_, _, rfl⟩
  | loadRegs x =>
    change execLoadRegs x s = _ at h
    unfold execLoadRegs at h
    split at h
    · cases h; exact .inl rfl
    · cases h; exact .inl (State.setV_mem s (s.regsLoadedFrom s.i.toNat x))
  | cls | jp | seImm | sneImm | seReg | sneReg | jpV0 | skp | sknp | ldImm | addImm | ldReg | orReg | andReg | xorReg
  | addReg | subReg | shrReg | subnReg | shlReg | ldI | rnd | ldFromDt | ldToDt | ldToSt | addI | ldFont =>
    cases h; exact .inl rfl

/-- An instruction keeps the canonical form of memory. -/
theorem exec_wf {i : Instr} {s t : State} (h : exec i s = .next t) (hw : Memory.wf s.memBase s.mem = true) :
    Memory.wf t.memBase t.mem = true := by
  have hp : t.memBase = s.memBase := by
    rcases exec_cases h with ⟨c, w, -, rfl⟩ | hc
    · rfl
    · rw [State.memBase, hc.params, State.memBase]
  rw [hp]
  rcases exec_memory h with e | ⟨a, bs, e⟩
  · rwa [e]
  · rw [e]
    exact State.wf_writeBytes s a bs hw

/-- No instruction reads the schedule. -/
theorem exec_setSchedule (i : Instr) (s : State) (r : List Move) :
    ∃ t, exec i s = .next t ∧ exec i (s.setSchedule r) = .next (t.setSchedule r) := by
  cases i with
  | ret =>
    show ∃ t, execRet s = _ ∧ execRet _ = _
    unfold execRet
    rw [State.setSchedule_stack]
    cases s.stack <;> exact ⟨_, rfl, rfl⟩
  | call nnn =>
    show ∃ t, execCall nnn s = _ ∧ execCall nnn _ = _
    unfold execCall
    rw [show (s.setSchedule r).stackFull = s.stackFull from rfl]
    split <;> exact ⟨_, rfl, rfl⟩
  | drw x y n =>
    show ∃ t, execDrw x y n s = _ ∧ execDrw x y n _ = _
    unfold execDrw
    rw [State.setSchedule_i]
    split <;> exact ⟨_, rfl, rfl⟩
  | ldKey x =>
    show ∃ t, execLdKey x s = _ ∧ execLdKey x _ = _
    unfold execLdKey
    rw [State.setSchedule_keys]
    split <;> exact ⟨_, rfl, rfl⟩
  | ldBcd x =>
    show ∃ t, execLdBcd x s = _ ∧ execLdBcd x _ = _
    unfold execLdBcd
    rw [State.setSchedule_i]
    split <;> exact ⟨_, rfl, rfl⟩
  | storeRegs x =>
    show ∃ t, execStoreRegs x s = _ ∧ execStoreRegs x _ = _
    unfold execStoreRegs
    rw [State.setSchedule_i]
    split <;> exact ⟨_, rfl, rfl⟩
  | loadRegs x =>
    show ∃ t, execLoadRegs x s = _ ∧ execLoadRegs x _ = _
    unfold execLoadRegs
    rw [State.setSchedule_i]
    split
    · exact ⟨_, rfl, rfl⟩
    · have e : (s.setSchedule r).regsLoadedFrom s.i.toNat x = s.regsLoadedFrom s.i.toNat x := rfl
      refine ⟨_, rfl, ?_⟩
      rw [e]
      rfl
  | cls | jp | seImm | sneImm | seReg | sneReg | jpV0 | skp | sknp | ldImm | addImm | ldReg | orReg | andReg | xorReg
  | addReg | subReg | shrReg | subnReg | shlReg | ldI | rnd | ldFromDt | ldToDt | ldToSt | addI | ldFont =>
    exact ⟨_, rfl, rfl⟩

theorem State.engineEnabled_iff {s : State} : s.engineEnabled = true ↔ s.runState = .running ∧ s.faultLatch = none := by
  simp [State.engineEnabled]

/-- An Engine step that has a next state was enabled, and either took a fault of the fetch check, of decode or of
execute, or completed one decoded instruction and counted it. -/
theorem engineStep_cases {s t : State} (h : engineStep s = .next t) :
    s.runState = .running ∧ s.faultLatch = none ∧
    ((s.pcRefused = true ∧ t = s.raise .pcOutOfRange s.pc) ∨
     (s.pcRefused = false ∧ decodeWord s.fetch = none ∧ t = s.raise .invalidOpcode s.fetch) ∨
     (s.pcRefused = false ∧ ∃ i, decodeWord s.fetch = some i ∧
       ((∃ c w, FaultCode.OfExecute c ∧ exec i s = .next (s.raise c w) ∧ t = s.raise c w) ∨
        (∃ u, exec i s = .next u ∧ SameControl s u ∧ t = u.countStep)))) := by
  unfold engineStep at h
  split at h
  case isFalse => cases h
  case isTrue he =>
    obtain ⟨hr, hf⟩ := State.engineEnabled_iff.mp he
    refine ⟨hr, hf, ?_⟩
    split at h
    case isTrue hp => cases h; exact .inl ⟨hp, rfl⟩
    case isFalse hp =>
      have hp : s.pcRefused = false := by simpa using hp
      split at h
      case h_1 hd => cases h; exact .inr (.inl ⟨hp, hd, rfl⟩)
      case h_2 i hd =>
        refine .inr (.inr ⟨hp, i, hd, ?_⟩)
        obtain ⟨u, hu⟩ := exec_next i s
        rw [hu] at h
        cases h
        rcases exec_cases hu with ⟨c, w, hc, rfl⟩ | hc
        · exact .inl ⟨c, w, hc, hu, by simp [State.finishStep]⟩
        · exact .inr ⟨u, hu, hc, by simp [State.finishStep, hc.faultLatch, hf]⟩

/-- A step is the scheduled move, or the Engine's when nothing is scheduled. -/
theorem step_nil {s : State} (h : s.schedule = []) : step s = engineStep s := by
  simp [step, scheduledStep, h]

theorem step_cons {s : State} {m : Move} {ms : List Move} (h : s.schedule = m :: ms) :
    step s = moveStep m (s.setSchedule ms) := by
  simp [step, scheduledStep, h]

/-- What a step can be: the Engine's on the state itself, or a move's on the state with the rest of the schedule. -/
theorem step_cases {s t : State} (h : step s = .next t) :
    (s.schedule = [] ∧ engineStep s = .next t) ∨
    (∃ m ms, s.schedule = m :: ms ∧ moveStep m (s.setSchedule ms) = .next t) := by
  cases hs : s.schedule with
  | nil => exact .inl ⟨rfl, by rwa [step_nil hs] at h⟩
  | cons m ms => exact .inr ⟨m, ms, rfl, by rwa [step_cons hs] at h⟩

/-! ### The end of a completed step -/

/-- A completed step either counts, or renders its own display into a frame and starts a new batch
(40_execution_cycle.md R99). -/
theorem State.countStep_cases (u : State) :
    (u.bc + 1 ≠ u.params.ipf ∧ u.countStep = u.setBc (u.bc + 1)) ∨
    (u.bc + 1 = u.params.ipf ∧
      u.countStep = (u.setFrames (enqueue u.params.frameCap u.frames (renderFrame u.params u.display))).setBc 0) := by
  unfold State.countStep
  by_cases h : u.bc + 1 = u.params.ipf
  · exact .inr ⟨h, by simp [h, State.produceFrame]⟩
  · exact .inl ⟨h, by simp [h]⟩

/-! ### The TimerPair's and the Host's moves -/

theorem tickRead_cases {s t : State} (h : tickRead s = .next t) :
    s.params.tickAtomic = false ∧ s.runState = .running ∧ s.tickLatch = .idle ∧
      t = s.setTickLatch (.latched s.dt s.st) := by
  unfold tickRead at h
  split at h
  case isTrue hc => cases h; exact ⟨hc.1, hc.2.1, hc.2.2, rfl⟩
  case isFalse => cases h

theorem tickWrite_cases {s t : State} (h : tickWrite s = .next t) :
    ∃ d e, s.tickLatch = .latched d e ∧
      t = (((s.setDt (countDown d)).setSt (countDown e)).setTickLatch .idle).stopReturns := by
  unfold tickWrite at h
  split at h
  case h_1 d e hl => cases h; exact ⟨d, e, hl, rfl⟩
  case h_2 => cases h

theorem timerTick_cases {s t : State} (h : timerTick s = .next t) :
    s.params.tickAtomic = true ∧ s.runState = .running ∧
      t = (s.setDt (countDown s.dt)).setSt (countDown s.st) := by
  unfold timerTick at h
  split at h
  case isTrue hc => cases h; exact ⟨hc.1, hc.2, rfl⟩
  case isFalse => cases h

/-- One decrement, saturating at zero, as a number (46_timers.md R218). -/
theorem countDown_toNat (b : Byte) : (countDown b).toNat = b.toNat - 1 := by
  have := b.isLt
  unfold countDown
  split
  · simp_all
  · next h =>
    have : b.toNat ≠ 0 := fun e => h (BitVec.eq_of_toNat_eq e)
    rw [BitVec.toNat_sub]
    simp
    omega

theorem timerTick_next {s : State} (ha : s.params.tickAtomic = true) (hr : s.runState = .running) :
    timerTick s = .next ((s.setDt (countDown s.dt)).setSt (countDown s.st)) := if_pos ⟨ha, hr⟩

theorem tickRead_next {s : State} (ha : s.params.tickAtomic = false) (hr : s.runState = .running)
    (hl : s.tickLatch = .idle) : tickRead s = .next (s.setTickLatch (.latched s.dt s.st)) := if_pos ⟨ha, hr, hl⟩

theorem tickWrite_next {s : State} {d e : Byte} (hl : s.tickLatch = .latched d e) :
    tickWrite s = .next (((s.setDt (countDown d)).setSt (countDown e)).setTickLatch .idle).stopReturns := by
  simp only [tickWrite, hl]

theorem loadStep_cases {loaded s t : State} (h : loadStep loaded s = .next t) : s.runState ≠ .running ∧ t = loaded := by
  unfold loadStep at h
  split at h
  · cases h
  · cases h; exact ⟨‹_›, rfl⟩

/-- A load that is enabled (70_reset_and_hazards.md R264). -/
theorem loadStep_next {s : State} (loaded : State) (hr : s.runState ≠ .running) : loadStep loaded s = .next loaded :=
  if_neg hr

theorem hostLoad_cases {rom : List Byte} {s t : State} (h : hostLoad rom s = .next t) :
    s.runState ≠ .running ∧
      ((rom.length ≤ 3584 ∧ t = (s.writeBytes 0x200 rom).setReply (some .done)) ∨
       (3584 < rom.length ∧ t = s.setReply (some .romTooLarge))) := by
  obtain ⟨hr, rfl⟩ := loadStep_cases h
  refine ⟨hr, ?_⟩
  unfold State.loadRom
  simp only [Config.memSize, Config.programOrigin]
  by_cases hl : rom.length ≤ 3584
  · exact .inl ⟨hl, by simp [hl]⟩
  · exact .inr ⟨by omega, by simp [hl]⟩

/-- `Run` either finds the machine running and changes only the reply, or starts it (60_exceptions.md R244). -/
theorem hostRun_cases {s t : State} (h : hostRun s = .next t) :
    (s.runState = .running ∧ t = s.setReply (some .done)) ∨
    (s.runState ≠ .running ∧ t = (((s.setRunState .running).setFaultLatch none).setBc 0).setReply (some .done)) := by
  cases h
  by_cases hr : s.runState = .running
  · exact .inl ⟨hr, by simp [State.resume, hr]⟩
  · exact .inr ⟨hr, by simp [State.resume, hr]⟩

/-- What `Stop` does: it stops a running machine and returns, or waits for the tick in flight, or returns `NotRunning`
(60_exceptions.md R245, R246). -/
theorem stopRun_cases (s : State) :
    (s.runState = .running ∧ s.tickLatch = .idle ∧ s.stopRun = (s.setRunState .stopped).setReply (some .done)) ∨
    (s.runState = .running ∧ s.tickLatch ≠ .idle ∧ s.stopRun = (s.setRunState .stopped).setStopPending true) ∨
    (s.runState ≠ .running ∧ s.stopRun = s.setReply (some .notRunning)) := by
  unfold State.stopRun
  split
  · split
    · exact .inl ⟨‹_›, ‹_›, rfl⟩
    · exact .inr (.inl ⟨‹_›, ‹_›, rfl⟩)
  · exact .inr (.inr ⟨‹_›, rfl⟩)

end Sys2Proof.Machine
end

