-- ==== Sys2Proof/Laws/Control.lean ====
section
/-! SUPPORT. Where control can go, once: the program counters the fetch check accepts, the addresses an opcode can hold,
and what an instruction does to the program counter and the call stack (40_execution_cycle.md R91, R95 to R97,
41_control_flow.md R110 to R117). -/

namespace Sys2Proof.Machine

/-- The accepted program counters (40_execution_cycle.md R91). -/
theorem State.pcRefused_eq_false {s : State} :
    s.pcRefused = false ↔
      s.pc.toNat ≤ 0x0FFE ∧ (s.params.fetchCheck = .strict → s.pc.toNat % 2 = 0 ∧ 0x0200 ≤ s.pc.toNat) := by
  have hb : s.pc.getLsbD 0 = decide (s.pc.toNat % 2 = 1) := by rw [BitVec.getLsbD, Nat.testBit_zero]
  unfold State.pcRefused
  rw [hb]
  cases s.params.fetchCheck <;> simp

/-- An address that an opcode holds fits 12 bits (30_encoding.md R73). -/
theorem decodeWord_isAddr12 {op nnn : Word}
    (h : decodeWord op = some (.jp nnn) ∨ decodeWord op = some (.call nnn) ∨ decodeWord op = some (.jpV0 nnn)) :
    nnn.toNat ≤ 0x0FFF := by
  have hn := opNnn_toNat op
  have : nnn = opNnn op := by
    rcases h with h | h | h <;>
      (unfold decodeWord decodeFamily0 decodeFamily8 decodeFamilyE decodeFamilyF at h
       split at h <;> first | (cases h; rfl) | (repeat' split at h) <;> cases h)
  rw [this]
  omega

/-- What an instruction does to the program counter and the call stack. -/
inductive ControlEffect (i : Instr) (s t : State) : Prop where
  /-- It stays, advances or skips, and the stack is as it was. -/
  | onward (pc : t.pc = s.pc ∨ t.pc = s.pc + 2 ∨ t.pc = s.pc + 4) (stack : t.stack = s.stack)
  /-- A return. -/
  | ret (hi : i = .ret) (stack : s.stack = t.pc :: t.stack)
  /-- A call. -/
  | call (nnn : Word) (hi : i = .call nnn) (pc : t.pc = nnn) (stack : t.stack = (s.pc + 2) :: s.stack)
      (room : s.params.stackDepth ≠ some s.stack.length)
  /-- A jump. -/
  | jp (nnn : Word) (hi : i = .jp nnn) (pc : t.pc = nnn) (stack : t.stack = s.stack)
  /-- A jump with offset. -/
  | jpV0 (nnn : Word) (hi : i = .jpV0 nnn) (pc : t.pc = nnn + (s.reg 0).setWidth 16) (stack : t.stack = s.stack)

theorem ControlEffect.raise (i : Instr) (s : State) (c : FaultCode) (w : Word) : ControlEffect i s (s.raise c w) :=
  .onward (.inl rfl) rfl

theorem ControlEffect.advance {i : Instr} {s t : State} (pc : t.pc = s.pc) (stack : t.stack = s.stack) :
    ControlEffect i s t.advance := .onward (.inr (.inl (by rw [← pc]; rfl))) stack

theorem ControlEffect.skipIf (i : Instr) (s : State) (c : Bool) : ControlEffect i s (s.skipIf c) := by
  refine .onward (.inr ?_) rfl
  cases c
  · exact .inl rfl
  · exact .inr rfl

/-- Every instruction has one of these effects on control. -/
theorem exec_control {i : Instr} {s t : State} (h : exec i s = .next t) : ControlEffect i s t := by
  cases i with
  | ret =>
    change execRet s = _ at h
    unfold execRet at h
    split at h
    · cases h; exact .raise ..
    · next hs => cases h; exact .ret rfl hs
  | call nnn =>
    change execCall nnn s = _ at h
    unfold execCall at h
    split at h
    · cases h; exact .raise ..
    · next hf => cases h; exact .call nnn rfl rfl rfl (by simpa [State.stackFull] using hf)
  | jp nnn => cases h; exact .jp nnn rfl rfl rfl
  | jpV0 nnn => cases h; exact .jpV0 nnn rfl rfl rfl
  | seImm | sneImm | seReg | sneReg | skp | sknp => cases h; exact .skipIf ..
  | drw x y n =>
    change execDrw x y n s = _ at h
    unfold execDrw at h
    split at h
    · cases h; exact .raise ..
    · cases h; exact .advance rfl rfl
  | ldKey x =>
    change execLdKey x s = _ at h
    unfold execLdKey at h
    split at h
    · cases h; exact .onward (.inl rfl) rfl
    · cases h; exact .advance rfl rfl
  | ldBcd x =>
    change execLdBcd x s = _ at h
    unfold execLdBcd at h
    split at h
    · cases h; exact .raise ..
    · cases h; exact .advance rfl rfl
  | storeRegs x =>
    change execStoreRegs x s = _ at h
    unfold execStoreRegs at h
    split at h
    · cases h; exact .raise ..
    · cases h; exact .advance rfl rfl
  | loadRegs x =>
    change execLoadRegs x s = _ at h
    unfold execLoadRegs at h
    split at h
    · cases h; exact .raise ..
    · cases h; exact .advance (State.setV_pc ..) (State.setV_stack ..)
  | cls | ldImm | addImm | ldReg | orReg | andReg | xorReg | addReg | subReg | shrReg | subnReg | shlReg | ldI | rnd
  | ldFromDt | ldToDt | ldToSt | addI | ldFont => cases h; exact .advance rfl rfl

end Sys2Proof.Machine
end

