-- ==== Sys2Proof/Laws/Frame.lean ====
section
/-! SUPPORT. What each instruction may change, written once: the frame of every instruction, from which the statements about
writers follow (10_state.md R20 to R32). -/

namespace Sys2Proof.Machine

/-- What an instruction may change when it completes. -/
def mayChange (s : State) : Instr → Changes
  | .cls => { display := true }
  | .ret | .call _ => { stack := true }
  | .jp _ | .seImm _ _ | .sneImm _ _ | .seReg _ _ | .sneReg _ _ | .jpV0 _ | .skp _ | .sknp _ => onlyPc
  | .ldImm x _ | .addImm x _ | .ldReg x _ | .orReg x _ | .andReg x _ | .xorReg x _ | .ldFromDt x | .ldKey x => onlyReg x
  | .addReg x _ | .subReg x _ | .shrReg x _ | .subnReg x _ | .shlReg x _ => onlyRegAndFlag x
  | .ldI _ | .addI _ | .ldFont _ => { i := true }
  | .rnd x _ => onlyRegAndRng x
  | .drw _ _ _ => onlyFlagAndDisplay
  | .ldToDt _ => { dt := true }
  | .ldToSt _ => { st := true }
  | .ldBcd _ => onlyBytes s.i.toNat 3
  | .storeRegs x => onlyBytes s.i.toNat (x.val + 1)
  | .loadRegs x => onlyRegsUpTo x

theorem frame_setPc (s : State) (a : Word) : FrameHolds onlyPc s (s.setPc a) := by
  constructor <;> intros <;> rfl

theorem frame_setReg (s : State) (x : Reg) (b : Byte) (a : Word) : FrameHolds (onlyReg x) s ((s.setReg x b).setPc a) := by
  constructor <;> intros <;> try rfl
  rename_i r h
  have : r ≠ x := by simpa [onlyReg] using h
  simp [this]

theorem frame_setResultAndFlag (s : State) (x : Reg) (b c : Byte) (a : Word) :
    FrameHolds (onlyRegAndFlag x) s (((s.setReg x b).setReg vF c).setPc a) := by
  constructor <;> intros <;> try rfl
  rename_i r h
  have : r ≠ x ∧ r ≠ vF := by simpa [onlyRegAndFlag] using h
  simp [this]

theorem frame_setI (s : State) (w a : Word) : FrameHolds { i := true } s ((s.setI w).setPc a) := by
  constructor <;> first | (intros; rfl) | exact fun h => Bool.noConfusion h

theorem frame_setStack (s : State) (l : List Word) (a : Word) : FrameHolds { stack := true } s ((s.setStack l).setPc a) := by
  constructor <;> first | (intros; rfl) | exact fun h => Bool.noConfusion h

theorem frame_setDt (s : State) (b : Byte) (a : Word) : FrameHolds { dt := true } s ((s.setDt b).setPc a) := by
  constructor <;> first | (intros; rfl) | exact fun h => Bool.noConfusion h

theorem frame_setSt (s : State) (b : Byte) (a : Word) : FrameHolds { st := true } s ((s.setSt b).setPc a) := by
  constructor <;> first | (intros; rfl) | exact fun h => Bool.noConfusion h

theorem frame_setDisplay (s : State) (d : Display) (a : Word) :
    FrameHolds { display := true } s ((s.setDisplay d).setPc a) := by
  constructor <;> first | (intros; rfl) | exact fun h => Bool.noConfusion h

theorem frame_rnd (s : State) (x : Reg) (b : Byte) (k : Nat) (a : Word) :
    FrameHolds (onlyRegAndRng x) s (((s.setReg x b).setRng k).setPc a) := by
  refine ⟨?_, fun _ => rfl, fun _ => rfl, fun _ => rfl, fun _ => rfl, fun _ => rfl, fun h => Bool.noConfusion h,
    fun _ _ => rfl, rfl, rfl, rfl, rfl, rfl, rfl, rfl, rfl, rfl, rfl⟩
  intro r h
  have : r ≠ x := by simpa [onlyRegAndRng] using h
  simp [this]

theorem frame_drw (s : State) (d : Display) (b : Byte) (a : Word) :
    FrameHolds onlyFlagAndDisplay s (((s.setDisplay d).setReg vF b).setPc a) := by
  refine ⟨?_, fun _ => rfl, fun _ => rfl, fun _ => rfl, fun _ => rfl, fun h => Bool.noConfusion h, fun _ => rfl,
    fun _ _ => rfl, rfl, rfl, rfl, rfl, rfl, rfl, rfl, rfl, rfl, rfl⟩
  intro r h
  have : r ≠ vF := by simpa [onlyFlagAndDisplay] using h
  simp [this]

theorem frame_writeBytes (s : State) (base n : Nat) (bs : List Byte) (hn : bs.length = n) (a : Word) :
    FrameHolds (onlyBytes base n) s ((s.writeBytes base bs).setPc a) := by
  refine ⟨fun _ _ => rfl, fun _ => rfl, fun _ => rfl, fun _ => rfl, fun _ => rfl, fun _ => rfl, fun _ => rfl,
    ?_, rfl, rfl, rfl, rfl, rfl, rfl, rfl, rfl, rfl, rfl⟩
  intro k h
  have : ¬ (base ≤ k ∧ k < base + n) := by simpa [onlyBytes] using h
  show (s.writeBytes _ _).readByte k = _
  rw [State.readByte_writeBytes_outside]; omega

theorem frame_setV (s : State) (v : Vector Byte 16) (x : Reg) (a : Word)
    (h : ∀ r, ¬ r ≤ x → (s.setV v).reg r = s.reg r) : FrameHolds (onlyRegsUpTo x) s ((s.setV v).setPc a) := by
  refine ⟨fun r hr => h r ?_, fun _ => rfl, fun _ => rfl, fun _ => rfl, fun _ => rfl, fun _ => rfl, fun _ => rfl,
    fun _ _ => rfl, rfl, rfl, rfl, rfl, rfl, rfl, rfl, rfl, rfl, rfl⟩
  simpa [onlyRegsUpTo] using hr

theorem frame_loadRegs (s : State) (base : Nat) (x : Reg) (a : Word) :
    FrameHolds (onlyRegsUpTo x) s ((s.setV (s.regsLoadedFrom base x)).setPc a) :=
  frame_setV s _ x a fun r hr => by rw [State.reg_setV_regsLoadedFrom, if_neg hr]

theorem FrameHolds.refl (c : Changes) (s : State) : FrameHolds c s s := by constructor <;> intros <;> rfl

/-- An instruction takes a fault, or changes at most what it may change (40_execution_cycle.md R94, R98). -/
theorem exec_frame {i : Instr} {s t : State} (h : exec i s = .next t) :
    (∃ c w, FaultCode.OfExecute c ∧ t = s.raise c w) ∨ FrameHolds (mayChange s i) s t := by
  cases i with
  | cls => cases h; exact .inr (frame_setDisplay ..)
  | ret =>
    change execRet s = _ at h
    unfold execRet at h
    split at h <;> cases h
    · exact .inl ⟨_, _, .inl rfl, rfl⟩
    · exact .inr (frame_setStack ..)
  | call nnn =>
    change execCall nnn s = _ at h
    unfold execCall at h
    split at h <;> cases h
    · exact .inl ⟨_, _, .inr (.inl rfl), rfl⟩
    · exact .inr (frame_setStack ..)
  | jp | seImm | sneImm | seReg | sneReg | jpV0 | skp | sknp => cases h; exact .inr (frame_setPc ..)
  | ldImm | addImm | ldReg | orReg | andReg | xorReg | ldFromDt => cases h; exact .inr (frame_setReg ..)
  | addReg | subReg | shrReg | subnReg | shlReg => cases h; exact .inr (frame_setResultAndFlag ..)
  | ldI | addI | ldFont => cases h; exact .inr (frame_setI ..)
  | rnd => cases h; exact .inr (frame_rnd ..)
  | ldToDt => cases h; exact .inr (frame_setDt ..)
  | ldToSt => cases h; exact .inr (frame_setSt ..)
  | drw x y n =>
    change execDrw x y n s = _ at h
    unfold execDrw at h
    split at h <;> cases h
    · exact .inl ⟨_, _, .inr (.inr rfl), rfl⟩
    · exact .inr (frame_drw ..)
  | ldKey x =>
    change execLdKey x s = _ at h
    unfold execLdKey at h
    split at h <;> cases h
    · exact .inr (FrameHolds.refl ..)
    · exact .inr (frame_setReg ..)
  | ldBcd x =>
    change execLdBcd x s = _ at h
    unfold execLdBcd at h
    split at h <;> cases h
    · exact .inl ⟨_, _, .inr (.inr rfl), rfl⟩
    · exact .inr (frame_writeBytes _ _ _ _ (length_bcdDigits _) _)
  | storeRegs x =>
    change execStoreRegs x s = _ at h
    unfold execStoreRegs at h
    split at h <;> cases h
    · exact .inl ⟨_, _, .inr (.inr rfl), rfl⟩
    · exact .inr (frame_writeBytes _ _ _ _ (State.length_regsUpTo _ _) _)
  | loadRegs x =>
    change execLoadRegs x s = _ at h
    unfold execLoadRegs at h
    split at h <;> cases h
    · exact .inl ⟨_, _, .inr (.inr rfl), rfl⟩
    · exact .inr (frame_loadRegs ..)

end Sys2Proof.Machine
end

