-- ==== Sys2Proof/Laws/PerInstr.lean ====
section
/-! SUPPORT. Statements about every instruction as syntax, one lemma per constructor. -/

namespace Sys2Proof.Laws

/-! ### The opcode an instruction encodes to is selected by one of the rows of the opcode map (30_encoding.md R70) -/

/-- Some row of rule R70 selects the opcode of the instruction. -/
def EncodedInMap.Statement (i : Instr) : Prop := ∃ r ∈ opcodeRows, r.Selects (encode i)

theorem EncodedInMap.formatA {f : BitVec 4} (nnn : Word) {r : OpcodeRow} (hr : r ∈ opcodeRows)
    (hm : r.maskBits = 0xF000#16) (hf : r.matchBits.toNat / 4096 = f.toNat) (h0 : r.matchBits &&& 0xF000#16 = r.matchBits) :
    ∃ r ∈ opcodeRows, r.Selects (encodeA f nnn) := by
  refine ⟨r, hr, ?_⟩
  rw [OpcodeRow.Selects, hm, selects_family _ _ h0, encodeA_toNat, hf]
  omega

theorem EncodedInMap.formatXI {f : BitVec 4} (x : Reg) (nn : Byte) {r : OpcodeRow} (hr : r ∈ opcodeRows)
    (hm : r.maskBits = 0xF000#16) (hf : r.matchBits.toNat / 4096 = f.toNat) (h0 : r.matchBits &&& 0xF000#16 = r.matchBits) :
    ∃ r ∈ opcodeRows, r.Selects (encodeXI f x nn) := by
  have := x.isLt; have := nn.isLt
  refine ⟨r, hr, ?_⟩
  rw [OpcodeRow.Selects, hm, selects_family _ _ h0, encodeXI_toNat, hf]
  omega

theorem EncodedInMap.formatXYN {f : BitVec 4} (x y : Reg) (n : BitVec 4) {r : OpcodeRow} (hr : r ∈ opcodeRows)
    (hm : r.maskBits = 0xF000#16) (hf : r.matchBits.toNat / 4096 = f.toNat) (h0 : r.matchBits &&& 0xF000#16 = r.matchBits) :
    ∃ r ∈ opcodeRows, r.Selects (encodeXY f x y n) := by
  have := x.isLt; have := y.isLt; have := n.isLt
  refine ⟨r, hr, ?_⟩
  rw [OpcodeRow.Selects, hm, selects_family _ _ h0, encodeXY_toNat, hf]
  omega

theorem EncodedInMap.formatXY {f : BitVec 4} (x y : Reg) {n : BitVec 4} {r : OpcodeRow} (hr : r ∈ opcodeRows)
    (hm : r.maskBits = 0xF00F#16) (hf : r.matchBits.toNat / 4096 = f.toNat) (hn : r.matchBits.toNat % 16 = n.toNat)
    (h0 : r.matchBits &&& 0xF00F#16 = r.matchBits) : ∃ r ∈ opcodeRows, r.Selects (encodeXY f x y n) := by
  have := x.isLt; have := y.isLt; have := n.isLt
  refine ⟨r, hr, ?_⟩
  rw [OpcodeRow.Selects, hm, selects_nibble _ _ h0, encodeXY_toNat, hf, hn]
  omega

theorem EncodedInMap.formatX {f : BitVec 4} (x : Reg) {nn : Byte} {r : OpcodeRow} (hr : r ∈ opcodeRows)
    (hm : r.maskBits = 0xF0FF#16) (hf : r.matchBits.toNat / 4096 = f.toNat) (hn : r.matchBits.toNat % 256 = nn.toNat)
    (h0 : r.matchBits &&& 0xF0FF#16 = r.matchBits) : ∃ r ∈ opcodeRows, r.Selects (encodeXI f x nn) := by
  have := x.isLt; have := nn.isLt
  refine ⟨r, hr, ?_⟩
  rw [OpcodeRow.Selects, hm, selects_byte _ _ h0, encodeXI_toNat, hf, hn]
  omega

/-- The `k`-th row of the map is a row of the map. -/
theorem EncodedInMap.row {r : OpcodeRow} (k : Nat) (h : opcodeRows[k]? = some r) : r ∈ opcodeRows :=
  List.mem_of_getElem? h

theorem EncodedInMap.cls : EncodedInMap.Statement .cls := ⟨_, EncodedInMap.row 0 rfl, rfl⟩
theorem EncodedInMap.ret : EncodedInMap.Statement .ret := ⟨_, EncodedInMap.row 1 rfl, rfl⟩
theorem EncodedInMap.jp (nnn : Word) : EncodedInMap.Statement (.jp nnn) :=
  EncodedInMap.formatA nnn (EncodedInMap.row 2 rfl) rfl rfl rfl
theorem EncodedInMap.call (nnn : Word) : EncodedInMap.Statement (.call nnn) :=
  EncodedInMap.formatA nnn (EncodedInMap.row 3 rfl) rfl rfl rfl
theorem EncodedInMap.seImm (x : Reg) (nn : Byte) : EncodedInMap.Statement (.seImm x nn) :=
  EncodedInMap.formatXI x nn (EncodedInMap.row 4 rfl) rfl rfl rfl
theorem EncodedInMap.sneImm (x : Reg) (nn : Byte) : EncodedInMap.Statement (.sneImm x nn) :=
  EncodedInMap.formatXI x nn (EncodedInMap.row 5 rfl) rfl rfl rfl
theorem EncodedInMap.seReg (x y : Reg) : EncodedInMap.Statement (.seReg x y) :=
  EncodedInMap.formatXY x y (EncodedInMap.row 6 rfl) rfl rfl rfl rfl
theorem EncodedInMap.ldImm (x : Reg) (nn : Byte) : EncodedInMap.Statement (.ldImm x nn) :=
  EncodedInMap.formatXI x nn (EncodedInMap.row 7 rfl) rfl rfl rfl
theorem EncodedInMap.addImm (x : Reg) (nn : Byte) : EncodedInMap.Statement (.addImm x nn) :=
  EncodedInMap.formatXI x nn (EncodedInMap.row 8 rfl) rfl rfl rfl
theorem EncodedInMap.ldReg (x y : Reg) : EncodedInMap.Statement (.ldReg x y) :=
  EncodedInMap.formatXY x y (EncodedInMap.row 9 rfl) rfl rfl rfl rfl
theorem EncodedInMap.orReg (x y : Reg) : EncodedInMap.Statement (.orReg x y) :=
  EncodedInMap.formatXY x y (EncodedInMap.row 10 rfl) rfl rfl rfl rfl
theorem EncodedInMap.andReg (x y : Reg) : EncodedInMap.Statement (.andReg x y) :=
  EncodedInMap.formatXY x y (EncodedInMap.row 11 rfl) rfl rfl rfl rfl
theorem EncodedInMap.xorReg (x y : Reg) : EncodedInMap.Statement (.xorReg x y) :=
  EncodedInMap.formatXY x y (EncodedInMap.row 12 rfl) rfl rfl rfl rfl
theorem EncodedInMap.addReg (x y : Reg) : EncodedInMap.Statement (.addReg x y) :=
  EncodedInMap.formatXY x y (EncodedInMap.row 13 rfl) rfl rfl rfl rfl
theorem EncodedInMap.subReg (x y : Reg) : EncodedInMap.Statement (.subReg x y) :=
  EncodedInMap.formatXY x y (EncodedInMap.row 14 rfl) rfl rfl rfl rfl
theorem EncodedInMap.shrReg (x y : Reg) : EncodedInMap.Statement (.shrReg x y) :=
  EncodedInMap.formatXY x y (EncodedInMap.row 15 rfl) rfl rfl rfl rfl
theorem EncodedInMap.subnReg (x y : Reg) : EncodedInMap.Statement (.subnReg x y) :=
  EncodedInMap.formatXY x y (EncodedInMap.row 16 rfl) rfl rfl rfl rfl
theorem EncodedInMap.shlReg (x y : Reg) : EncodedInMap.Statement (.shlReg x y) :=
  EncodedInMap.formatXY x y (EncodedInMap.row 17 rfl) rfl rfl rfl rfl
theorem EncodedInMap.sneReg (x y : Reg) : EncodedInMap.Statement (.sneReg x y) :=
  EncodedInMap.formatXY x y (EncodedInMap.row 18 rfl) rfl rfl rfl rfl
theorem EncodedInMap.ldI (nnn : Word) : EncodedInMap.Statement (.ldI nnn) :=
  EncodedInMap.formatA nnn (EncodedInMap.row 19 rfl) rfl rfl rfl
theorem EncodedInMap.jpV0 (nnn : Word) : EncodedInMap.Statement (.jpV0 nnn) :=
  EncodedInMap.formatA nnn (EncodedInMap.row 20 rfl) rfl rfl rfl
theorem EncodedInMap.rnd (x : Reg) (nn : Byte) : EncodedInMap.Statement (.rnd x nn) :=
  EncodedInMap.formatXI x nn (EncodedInMap.row 21 rfl) rfl rfl rfl
theorem EncodedInMap.drw (x y : Reg) (n : Nat) : EncodedInMap.Statement (.drw x y n) :=
  EncodedInMap.formatXYN x y (BitVec.ofNat 4 n) (EncodedInMap.row 22 rfl) rfl rfl rfl
theorem EncodedInMap.skp (x : Reg) : EncodedInMap.Statement (.skp x) :=
  EncodedInMap.formatX x (EncodedInMap.row 23 rfl) rfl rfl rfl rfl
theorem EncodedInMap.sknp (x : Reg) : EncodedInMap.Statement (.sknp x) :=
  EncodedInMap.formatX x (EncodedInMap.row 24 rfl) rfl rfl rfl rfl
theorem EncodedInMap.ldFromDt (x : Reg) : EncodedInMap.Statement (.ldFromDt x) :=
  EncodedInMap.formatX x (EncodedInMap.row 25 rfl) rfl rfl rfl rfl
theorem EncodedInMap.ldKey (x : Reg) : EncodedInMap.Statement (.ldKey x) :=
  EncodedInMap.formatX x (EncodedInMap.row 26 rfl) rfl rfl rfl rfl
theorem EncodedInMap.ldToDt (x : Reg) : EncodedInMap.Statement (.ldToDt x) :=
  EncodedInMap.formatX x (EncodedInMap.row 27 rfl) rfl rfl rfl rfl
theorem EncodedInMap.ldToSt (x : Reg) : EncodedInMap.Statement (.ldToSt x) :=
  EncodedInMap.formatX x (EncodedInMap.row 28 rfl) rfl rfl rfl rfl
theorem EncodedInMap.addI (x : Reg) : EncodedInMap.Statement (.addI x) :=
  EncodedInMap.formatX x (EncodedInMap.row 29 rfl) rfl rfl rfl rfl
theorem EncodedInMap.ldFont (x : Reg) : EncodedInMap.Statement (.ldFont x) :=
  EncodedInMap.formatX x (EncodedInMap.row 30 rfl) rfl rfl rfl rfl
theorem EncodedInMap.ldBcd (x : Reg) : EncodedInMap.Statement (.ldBcd x) :=
  EncodedInMap.formatX x (EncodedInMap.row 31 rfl) rfl rfl rfl rfl
theorem EncodedInMap.storeRegs (x : Reg) : EncodedInMap.Statement (.storeRegs x) :=
  EncodedInMap.formatX x (EncodedInMap.row 32 rfl) rfl rfl rfl rfl
theorem EncodedInMap.loadRegs (x : Reg) : EncodedInMap.Statement (.loadRegs x) :=
  EncodedInMap.formatX x (EncodedInMap.row 33 rfl) rfl rfl rfl rfl

end Sys2Proof.Laws
end

