-- ==== Sys2Proof/Laws/Screen.lean ====
section
/-! SUPPORT. The cells of a display after a write and after one sprite pixel, the pixels of a rendered frame, and the
queue after an enqueue (44_display_frame.md R181, R186, R188). -/

namespace Sys2Proof.Machine

@[simp] theorem Display.lit_blank (px py : Nat) : Display.blank.lit px py = false := by
  unfold Display.lit Display.blank
  split
  · rw [List.getD_eq_getElem?_getD, List.getElem?_replicate]; split <;> rfl
  · rfl

/-- A cell of the display after one cell is written. -/
theorem Display.lit_put (d : Display) {px py : Nat} (hx : px < 64) (hy : py < 32) (b : Bool) (qx qy : Nat) :
    (d.put px py b).lit qx qy = if qx = px ∧ qy = py then b else d.lit qx qy := by
  have hs := d.size
  unfold Display.lit Display.put
  simp only [Config.displayW, Config.displayH]
  by_cases hq : qx < 64 ∧ qy < 32
  · simp only [hq, and_self, if_true, List.getD_eq_getElem?_getD, List.getElem?_set]
    by_cases h : qx = px ∧ qy = py
    · have : py * 64 + px < d.cells.length := by omega
      simp [h, this]
    · have : ¬ py * 64 + px = qy * 64 + qx := by omega
      simp [h, this]
  · have : ¬ (qx = px ∧ qy = py) := by omega
    simp [hq, this]

/-- Two displays that agree on every cell are equal. -/
theorem Display.ext_of_lit {d e : Display} (h : ∀ px py, px < 64 → py < 32 → d.lit px py = e.lit px py) : d = e := by
  obtain ⟨dc, ds⟩ := d
  obtain ⟨ec, es⟩ := e
  congr
  apply List.ext_getElem (by omega)
  intro k hd he
  have := h (k % 64) (k / 64) (by omega) (by omega)
  have hk : k / 64 * 64 + k % 64 = k := by omega
  unfold Display.lit at this
  simp only [Config.displayW, Config.displayH] at this
  rw [if_pos (by omega), if_pos (by omega)] at this
  simpa [hk, hd, he] using this

/-- One sprite pixel: the cell it covers, if it is on the display, is inverted when the bit is set, and the collision
records whether it was lit (44_display_frame.md R181). -/
theorem drawPixel_lit (px py : Nat) (bit : Bool) (c : Canvas) (qx qy : Nat) :
    (drawPixel px py bit c).1.lit qx qy =
      if qx = px ∧ qy = py ∧ px < 64 ∧ py < 32 ∧ bit = true then !c.1.lit qx qy else c.1.lit qx qy := by
  unfold drawPixel
  simp only [Config.displayW, Config.displayH]
  by_cases h : px < 64 ∧ py < 32 ∧ bit = true
  · rw [if_pos h]
    show (c.1.put px py (!c.1.lit px py)).lit qx qy = _
    rw [Display.lit_put _ h.1 h.2.1]
    by_cases e : qx = px ∧ qy = py
    · obtain ⟨rfl, rfl⟩ := e; simp [h]
    · rw [if_neg e, if_neg (fun k => e ⟨k.1, k.2.1⟩)]
  · rw [if_neg h, if_neg (fun k => h k.2.2)]

theorem drawPixel_collision (px py : Nat) (bit : Bool) (c : Canvas) :
    (drawPixel px py bit c).2 = (c.2 || (decide (px < 64 ∧ py < 32 ∧ bit = true) && c.1.lit px py)) := by
  unfold drawPixel
  simp only [Config.displayW, Config.displayH]
  by_cases h : px < 64 ∧ py < 32 ∧ bit = true <;> simp [h]

/-! ### A row and a sprite (44_display_frame.md R181) -/

/-- The cells after the first `k` bits of a sprite byte are drawn. -/
theorem drawRowBits_lit (row : Byte) (px0 py : Nat) (c : Canvas) (qx qy k : Nat) :
    ((List.range k).foldl (fun c b => drawPixel (px0 + b) py (row.getLsbD (7 - b)) c) c).1.lit qx qy =
      (c.1.lit qx qy ^^
        decide (qx < 64 ∧ qy < 32 ∧ qy = py ∧ px0 ≤ qx ∧ qx < px0 + k ∧ row.getLsbD (7 - (qx - px0)) = true)) := by
  induction k with
  | zero =>
    have : ¬ (qx < 64 ∧ qy < 32 ∧ qy = py ∧ px0 ≤ qx ∧ qx < px0 + 0 ∧ row.getLsbD (7 - (qx - px0)) = true) := by omega
    rw [decide_eq_false this]
    simp
  | succ k ih =>
    rw [List.range_succ, List.foldl_append, List.foldl_cons, List.foldl_nil, drawPixel_lit, ih]
    by_cases h : qx = px0 + k ∧ qy = py
    · obtain ⟨rfl, rfl⟩ := h
      by_cases h2 : px0 + k < 64 ∧ qy < 32 <;> by_cases h3 : row.getLsbD (7 - k) = true <;> simp [h2, h3]
    · rw [if_neg (fun e => h ⟨e.1, e.2.1⟩)]
      congr 2
      apply propext
      constructor
      · rintro ⟨a, b, rfl, d, e, f⟩
        exact ⟨a, b, rfl, d, by omega, f⟩
      · rintro ⟨a, b, rfl, d, e, f⟩
        exact ⟨a, b, rfl, d, by omega, f⟩

/-- The collision after the first `k` bits of a sprite byte are drawn: some set bit fell on a cell that was lit. -/
theorem drawRowBits_collision (row : Byte) (px0 py : Nat) (c : Canvas) (k : Nat) :
    ((List.range k).foldl (fun c b => drawPixel (px0 + b) py (row.getLsbD (7 - b)) c) c).2 = true ↔
      c.2 = true ∨
        ∃ b < k, px0 + b < 64 ∧ py < 32 ∧ row.getLsbD (7 - b) = true ∧ c.1.lit (px0 + b) py = true := by
  induction k with
  | zero => simp
  | succ k ih =>
    rw [List.range_succ, List.foldl_append, List.foldl_cons, List.foldl_nil, drawPixel_collision, Bool.or_eq_true, ih,
      Bool.and_eq_true, drawRowBits_lit]
    simp only [Nat.lt_irrefl, false_and, and_false, decide_false, Bool.xor_false, decide_eq_true_eq]
    constructor
    · rintro ((h | ⟨b, hb, h⟩) | ⟨⟨h1, h2, h3⟩, h4⟩)
      · exact .inl h
      · exact .inr ⟨b, by omega, h⟩
      · exact .inr ⟨k, by omega, h1, h2, h3, h4⟩
    · rintro (h | ⟨b, hb, h⟩)
      · exact .inl (.inl h)
      · by_cases e : b = k
        · subst e
          exact .inr ⟨⟨h.1, h.2.1, h.2.2.1⟩, h.2.2.2⟩
        · exact .inl (.inr ⟨b, by omega, h⟩)

/-- The bit of a sprite of some bytes, drawn from `(px0, py)`, that covers the cell `(qx, qy)`. -/
abbrev spriteCovers (rows : List Byte) (px0 py qx qy : Nat) : Prop :=
  py ≤ qy ∧ qy < py + rows.length ∧ px0 ≤ qx ∧ qx < px0 + 8 ∧ (rows.getD (qy - py) 0).getLsbD (7 - (qx - px0)) = true

/-- The cells after a sprite is drawn: exclusive or with the sprite, on the display. -/
theorem drawRows_lit (rows : List Byte) (px0 py : Nat) (c : Canvas) (qx qy : Nat) (hx : qx < 64) (hy : qy < 32) :
    (drawRows rows px0 py c).1.lit qx qy = (c.1.lit qx qy ^^ decide (spriteCovers rows px0 py qx qy)) := by
  induction rows generalizing py c with
  | nil => simp [drawRows]
  | cons r rows ih =>
    rw [drawRows, ih, drawRow, drawRowBits_lit, Bool.xor_assoc]
    congr 1
    simp only [spriteCovers, List.length_cons]
    by_cases h : qy = py
    · subst h
      have : ¬ (qy + 1 ≤ qy) := by omega
      simp [this, hx, hy]
    · simp only [h, false_and, and_false, decide_false, Bool.false_xor]
      by_cases h2 : py + 1 ≤ qy
      · have e : (r :: rows).getD (qy - py) 0 = rows.getD (qy - (py + 1)) 0 := by
          rw [show qy - py = (qy - (py + 1)) + 1 by omega, List.getD_cons_succ]
        simp only [e]
        congr 1
        apply propext
        constructor
        · rintro ⟨-, b, d⟩
          exact ⟨by omega, by omega, d⟩
        · rintro ⟨-, b, d⟩
          exact ⟨by omega, by omega, d⟩
      · have h3 : ¬ py ≤ qy := by omega
        simp [h2, h3]

/-- The collision after a sprite is drawn: some cell on the display was lit and lies under a set bit. -/
theorem drawRows_collision (rows : List Byte) (px0 py : Nat) (c : Canvas) :
    (drawRows rows px0 py c).2 = true ↔
      c.2 = true ∨ ∃ qx qy, qx < 64 ∧ qy < 32 ∧ spriteCovers rows px0 py qx qy ∧ c.1.lit qx qy = true := by
  induction rows generalizing py c with
  | nil => simp [drawRows]
  | cons r rows ih =>
    rw [drawRows, ih, drawRow, drawRowBits_collision]
    simp only [drawRowBits_lit, spriteCovers, List.length_cons]
    constructor
    · rintro ((h | ⟨b, hb, h1, h2, h3, h4⟩) | ⟨qx, qy, h1, h2, ⟨h3, h4, h5, h6, h7⟩, h8⟩)
      · exact .inl h
      · refine .inr ⟨px0 + b, py, h1, h2, ⟨by omega, by omega, by omega, by omega, ?_⟩, h4⟩
        simpa using h3
      · refine .inr ⟨qx, qy, h1, h2, ⟨by omega, by omega, h5, h6, ?_⟩, ?_⟩
        · rw [show qy - py = (qy - (py + 1)) + 1 by omega, List.getD_cons_succ]
          exact h7
        · have : qy ≠ py := by omega
          simpa [this] using h8
    · rintro (h | ⟨qx, qy, h1, h2, ⟨h3, h4, h5, h6, h7⟩, h8⟩)
      · exact .inl (.inl h)
      · by_cases e : qy = py
        · subst e
          refine .inl (.inr ⟨qx - px0, by omega, by omega, h2, ?_, ?_⟩)
          · simpa using h7
          · rwa [show px0 + (qx - px0) = qx by omega]
        · refine .inr ⟨qx, qy, h1, h2, ⟨by omega, by omega, h5, h6, ?_⟩, ?_⟩
          · rwa [show qy - py = (qy - (py + 1)) + 1 by omega, List.getD_cons_succ] at h7
          · simpa [e] using h8

/-! ### Frames -/

theorem mem_pixels_renderFrame {p : Params} {d : Display} {c : Colour} (h : c ∈ (renderFrame p d).pixels) :
    c = p.litColour ∨ c = p.unlitColour := by
  obtain ⟨b, -, rfl⟩ := List.mem_map.mp h
  cases b <;> simp [colourOf]

theorem length_enqueue (cap : Nat) (q : List Frame) (f : Frame) : (enqueue cap q f).length = min (q.length + 1) cap := by
  simp [enqueue]; omega

theorem mem_enqueue {cap : Nat} {q : List Frame} {f g : Frame} (h : g ∈ enqueue cap q f) : g ∈ q ∨ g = f := by
  have := List.mem_of_mem_drop h
  simpa using this

end Sys2Proof.Machine
end

