-- ==== Sys2Proof/Tests/Slice0.lean ====
section
/-! SUPPORT. The model's own tests: the well-formedness checks, every constructor's decoding from a word written out from
the spec's encoding, one step per instruction with the expected values of spec/95_test_vectors.md (the vector's name stands
in the test's comment), and a witness for the hypotheses of every statement. -/

namespace Sys2Proof.Tests

open Sys2Proof Sys2Proof.Machine

/-! ### Well-formedness: an ill-formed term for each check (30_encoding.md R72, R73) -/

theorem test_wf_refuses_wide_address :
    ¬ (Instr.jp 0x1000).WellFormed ∧ ¬ (Instr.call 0x1000).WellFormed ∧ ¬ (Instr.ldI 0xFFFF).WellFormed ∧
    ¬ (Instr.jpV0 0x1000).WellFormed := by decide

theorem test_wf_refuses_wide_count : ¬ (Instr.drw 0 0 16).WellFormed := by decide

theorem test_wf_accepts_extremes :
    (Instr.jp 0xFFF).WellFormed ∧ (Instr.call 0).WellFormed ∧ (Instr.ldI 0xFFF).WellFormed ∧
    (Instr.jpV0 0xFFF).WellFormed ∧ (Instr.drw 15 15 15).WellFormed ∧ (Instr.loadRegs 15).WellFormed := by decide

/-! ### Decoding: words written out from rule R70 (vectors E1 to E19 among them) -/

theorem test_decode_family0 :
    decode [0x00, 0xE0] = .ok (.cls, []) ∧ decode [0x00, 0xEE] = .ok (.ret, []) ∧
    decode [0x00, 0x00] = .error (.invalidOpcode 0x0000) ∧ decode [0x00, 0xE1] = .error (.invalidOpcode 0x00E1) ∧
    decode [0x01, 0x23] = .error (.invalidOpcode 0x0123) := by decide

theorem test_decode_jumps_and_calls :
    decode [0x1A, 0xBC] = .ok (.jp 0xABC, []) ∧ decode [0x2A, 0xBC] = .ok (.call 0xABC, []) ∧
    decode [0xBA, 0xBC] = .ok (.jpV0 0xABC, []) := by decide

theorem test_decode_skips :
    decode [0x3A, 0xBC] = .ok (.seImm 0xA 0xBC, []) ∧ decode [0x4A, 0xBC] = .ok (.sneImm 0xA 0xBC, []) ∧
    decode [0x5A, 0xB0] = .ok (.seReg 0xA 0xB, []) ∧ decode [0x9A, 0xB0] = .ok (.sneReg 0xA 0xB, []) ∧
    decode [0x5A, 0xB1] = .error (.invalidOpcode 0x5AB1) ∧
    decode [0x9A, 0xBF] = .error (.invalidOpcode 0x9ABF) := by decide

theorem test_decode_immediates :
    decode [0x6A, 0xBC] = .ok (.ldImm 0xA 0xBC, []) ∧ decode [0x7A, 0xBC] = .ok (.addImm 0xA 0xBC, []) ∧
    decode [0xCA, 0xBC] = .ok (.rnd 0xA 0xBC, []) ∧ decode [0xAA, 0xBC] = .ok (.ldI 0xABC, []) := by decide

theorem test_decode_family8 :
    decode [0x8A, 0xB0] = .ok (.ldReg 0xA 0xB, []) ∧ decode [0x8A, 0xB1] = .ok (.orReg 0xA 0xB, []) ∧
    decode [0x8A, 0xB2] = .ok (.andReg 0xA 0xB, []) ∧
    decode [0x8A, 0xB3] = .ok (.xorReg 0xA 0xB, []) := by decide

theorem test_decode_family8_flags :
    decode [0x8A, 0xB4] = .ok (.addReg 0xA 0xB, []) ∧ decode [0x8A, 0xB5] = .ok (.subReg 0xA 0xB, []) ∧
    decode [0x8A, 0xB6] = .ok (.shrReg 0xA 0xB, []) ∧ decode [0x8A, 0xB7] = .ok (.subnReg 0xA 0xB, []) ∧
    decode [0x8A, 0xBE] = .ok (.shlReg 0xA 0xB, []) ∧ decode [0x8A, 0xB8] = .error (.invalidOpcode 0x8AB8) ∧
    decode [0x8A, 0xBF] = .error (.invalidOpcode 0x8ABF) := by decide

theorem test_decode_draw_and_keys :
    decode [0xDA, 0xBC] = .ok (.drw 0xA 0xB 0xC, []) ∧ decode [0xEA, 0x9E] = .ok (.skp 0xA, []) ∧
    decode [0xEA, 0xA1] = .ok (.sknp 0xA, []) ∧ decode [0xE1, 0x9F] = .error (.invalidOpcode 0xE19F) := by decide

theorem test_decode_familyF :
    decode [0xFA, 0x07] = .ok (.ldFromDt 0xA, []) ∧ decode [0xFA, 0x0A] = .ok (.ldKey 0xA, []) ∧
    decode [0xFA, 0x15] = .ok (.ldToDt 0xA, []) ∧ decode [0xFA, 0x18] = .ok (.ldToSt 0xA, []) := by decide

theorem test_decode_familyF_index :
    decode [0xFA, 0x1E] = .ok (.addI 0xA, []) ∧ decode [0xFA, 0x29] = .ok (.ldFont 0xA, []) ∧
    decode [0xFA, 0x33] = .ok (.ldBcd 0xA, []) ∧ decode [0xFA, 0x55] = .ok (.storeRegs 0xA, []) ∧
    decode [0xFA, 0x65] = .ok (.loadRegs 0xA, []) ∧ decode [0xF1, 0x08] = .error (.invalidOpcode 0xF108) ∧
    decode [0xFF, 0xFF] = .error (.invalidOpcode 0xFFFF) := by decide

theorem test_decode_rejects_short : decode [] = .error .truncated ∧ decode [0x60] = .error .truncated := by decide

theorem test_decode_leaves_the_rest : decode [0x60, 0xBE, 0x12, 0x34] = .ok (.ldImm 0 0xBE, [0x12, 0x34]) := by decide

theorem test_decodeTableWord :
    decodeTableWord 16 0x8AB4 = some (.addReg 0xA 0xB) ∧ decodeTableWord 16 0x8AB8 = none := by decide

theorem test_encode :
    encode (.call 0x210) = 0x2210 ∧ encode (.drw 1 0xF 1) = 0xD1F1 ∧ encode (.shrReg 6 1) = 0x8616 ∧
    encode (.ldBcd 0xA) = 0xFA33 := by decide

/-! ### One step: the vectors of spec/95_test_vectors.md -/

/-- An opcode at 0x200, running from the construction state (the conventions of spec/95_test_vectors.md). -/
def at200 (op : Word) : State := State.reset.placeOpcode op

/-- An opcode at another address. -/
def atPc (pc op : Word) : State := (State.reset.setPc pc).placeOpcode op

/-- The state after one step, when there is one. -/
def after (s : State) : State :=
  match step s with
  | .next t => t
  | .fault _ => s
  | .refused _ => s

/-- The constructor parameter `SHIFT_SOURCE = y`. -/
def shiftY (s : State) : State := { s with params := { s.params with shiftSource := .y } }

/-- The constructor parameter `STACK_DEPTH = d`. -/
def withDepth (d : Nat) (s : State) : State := { s with params := { s.params with stackDepth := some d } }

/-- The constructor parameter `IPF = k`. -/
def withIpf (k : Nat) (s : State) : State := { s with params := { s.params with ipf := k } }

/-- The constructor parameter `TIMER_TICK_ATOMIC = true`. -/
def atomicTicks (s : State) : State := { s with params := { s.params with tickAtomic := true } }

-- W8: construction, load [0x60, 0xBE], Run, one Engine step.
theorem test_load_run_and_step :
    let s := State.reset.setSchedule [.host (.loadBuffer [0x60, 0xBE]), .host .run]
    (after (after (after s))).reg 0 = 0xBE ∧ (after (after (after s))).pc = 0x0202 := by decide

-- F1: Run with no ROM.
theorem test_run_without_rom :
    let s := State.reset.setSchedule [.host .run]
    (after (after s)).faultLatch = some ⟨.invalidOpcode, 0x0000⟩ ∧ (after (after s)).pc = 0x0200 := by decide

-- X1, X2, F6.
theorem test_fetch_check :
    (after (atPc 0x0201 0x00EE)).faultLatch = some ⟨.pcOutOfRange, 0x0201⟩ ∧
    (after (atPc 0x01FE 0x6001)).faultLatch = some ⟨.pcOutOfRange, 0x01FE⟩ := by decide

-- X3, X4.
theorem test_last_fetch :
    let t := after (atPc 0x0FFE 0x6001)
    t.reg 0 = 1 ∧ t.pc = 0x1000 ∧ (after t).faultLatch = some ⟨.pcOutOfRange, 0x1000⟩ := by decide

-- X5 (its third step), X6.
theorem test_batch_ends_with_a_frame :
    let t := after ((withIpf 3 (at200 0x6003)).setBc 2)
    t.reg 0 = 3 ∧ t.bc = 0 ∧ t.frames.length = 1 := by decide

theorem test_fault_counts_nothing :
    let t := after ((withIpf 3 (at200 0x5121)).setBc 2)
    t.faultLatch = some ⟨.invalidOpcode, 0x5121⟩ ∧ t.bc = 2 ∧ t.frames = [] := by decide

-- X7, F2.
theorem test_run_clears_the_fault :
    let t := after ((((at200 0x5121).raise .invalidOpcode 0x5121).setBc 2).setSchedule [.host .run])
    t.faultLatch = none ∧ t.bc = 0 ∧ t.runState = .running ∧ t.pc = 0x0200 := by decide

theorem test_stop_while_idle :
    (after (State.reset.setSchedule [.host .stop])).reply = some .notRunning ∧
    (after (State.reset.setSchedule [.host .stop])).runState = .idle := by decide

-- C1, C4.
theorem test_call :
    let t := after (at200 0x2300)
    t.stack = [0x0202] ∧ t.pc = 0x0300 := by decide

theorem test_call_on_a_full_stack :
    let s := (withDepth 2 (atPc 0x0500 0x2600)).setStack [0x0402, 0x0202]
    (after s).faultLatch = some ⟨.stackOverflow, 0x0500⟩ ∧ (after s).stack = [0x0402, 0x0202] := by decide

-- C3, W7.
theorem test_ret :
    let t := after ((at200 0x00EE).setStack [0x0402, 0x0202])
    t.pc = 0x0402 ∧ t.stack = [0x0202] := by decide

theorem test_ret_on_an_empty_stack :
    (after (at200 0x00EE)).faultLatch = some ⟨.stackUnderflow, 0x0200⟩ ∧ (after (at200 0x00EE)).pc = 0x0200 := by decide

-- J1, J2.
theorem test_jp : (after (at200 0x1ABC)).pc = 0x0ABC := by decide

theorem test_jp_odd :
    (after (after (at200 0x1201))).faultLatch = some ⟨.pcOutOfRange, 0x0201⟩ := by decide

-- B1, B2.
theorem test_jpV0 :
    (after ((at200 0xB300).setReg 0 0x10)).pc = 0x0310 ∧
    (after ((at200 0xBFFF).setReg 0 0xFF)).pc = 0x10FE := by decide

-- S1, S2.
theorem test_seImm :
    (after ((at200 0x3342).setReg 3 0x42)).pc = 0x0204 ∧ (after ((at200 0x3343).setReg 3 0x42)).pc = 0x0202 := by decide

-- S3, S4.
theorem test_sneImm :
    (after ((at200 0x4342).setReg 3 0x42)).pc = 0x0202 ∧ (after ((at200 0x4343).setReg 3 0x42)).pc = 0x0204 := by decide

-- S5, S6.
theorem test_seReg :
    (after (((at200 0x5120).setReg 1 7).setReg 2 7)).pc = 0x0204 ∧
    (after (((at200 0x5120).setReg 1 7).setReg 2 8)).pc = 0x0202 := by decide

-- S8, S9.
theorem test_sneReg :
    (after (((at200 0x9120).setReg 1 1).setReg 2 2)).pc = 0x0204 ∧ (after (at200 0x9120)).pc = 0x0202 := by decide

-- A1.
theorem test_ldImm : (after (at200 0x6ABE)).reg 0xA = 0xBE ∧ (after (at200 0x6ABE)).pc = 0x0202 := by decide

-- A2, A3.
theorem test_addImm :
    (after (((at200 0x7001).setReg 0 0xFF).setReg vF 0x55)).reg 0 = 0 ∧
    (after (((at200 0x7001).setReg 0 0xFF).setReg vF 0x55)).reg vF = 0x55 ∧
    (after ((at200 0x7F01).setReg vF 0x10)).reg vF = 0x11 := by decide

-- A4.
theorem test_ldReg : (after ((at200 0x8010).setReg 1 3)).reg 0 = 3 := by decide

-- A5, A6, A7.
theorem test_orReg :
    let t := after ((((at200 0x8011).setReg 0 0xF0).setReg 1 0x0F).setReg vF 0x55)
    t.reg 0 = 0xFF ∧ t.reg vF = 0x55 := by decide

theorem test_andReg :
    let t := after ((((at200 0x8012).setReg 0 0xF0).setReg 1 0x3C).setReg vF 0x55)
    t.reg 0 = 0x30 ∧ t.reg vF = 0x55 := by decide

theorem test_xorReg :
    let t := after ((((at200 0x8013).setReg 0 0xF0).setReg 1 0x3C).setReg vF 0x55)
    t.reg 0 = 0xCC ∧ t.reg vF = 0x55 := by decide

-- A10, A13, A14.
theorem test_addReg :
    let t := after (((at200 0x8014).setReg 0 0x80).setReg 1 0x80)
    t.reg 0 = 0 ∧ t.reg vF = 1 := by decide

theorem test_addReg_into_vF :
    (after (((at200 0x8F14).setReg vF 0xFF).setReg 1 1)).reg vF = 1 ∧
    (after (((at200 0x8F14).setReg vF 0x10).setReg 1 1)).reg vF = 0 := by decide

-- A15, A17.
theorem test_subReg :
    let t := after (((at200 0x8015).setReg 0 7).setReg 1 5)
    t.reg 0 = 2 ∧ t.reg vF = 1 := by decide

theorem test_subReg_floors :
    let t := after ((((at200 0x8015).setReg 0 5).setReg 1 7).setReg vF 0x55)
    t.reg 0 = 0 ∧ t.reg vF = 0 := by decide

-- A20, A21.
theorem test_shrReg :
    let t := after ((((at200 0x8016).setReg 0 0x80).setReg 1 1).setReg vF 0x55)
    t.reg 0 = 0x40 ∧ t.reg vF = 0 := by decide

theorem test_shrReg_source_y :
    let t := after (((shiftY (at200 0x8016)).setReg 0 0xAA).setReg 1 5)
    t.reg 0 = 2 ∧ t.reg vF = 1 := by decide

-- A23, A24.
theorem test_subnReg :
    let t := after (((at200 0x8017).setReg 0 5).setReg 1 7)
    t.reg 0 = 2 ∧ t.reg vF = 1 := by decide

theorem test_subnReg_wraps :
    let t := after ((((at200 0x8017).setReg 0 7).setReg 1 5).setReg vF 0x55)
    t.reg 0 = 0xFE ∧ t.reg vF = 0 := by decide

-- A26, A28.
theorem test_shlReg :
    let t := after ((at200 0x800E).setReg 0 0x81)
    t.reg 0 = 2 ∧ t.reg vF = 1 := by decide

theorem test_shlReg_source_y :
    let t := after (((shiftY (at200 0x801E)).setReg 0 1).setReg 1 0x80)
    t.reg 0 = 0 ∧ t.reg vF = 1 := by decide

-- A30 and the free draw: the byte is unknown, the fields the spec fixes are not.
theorem test_rnd_takes_one_draw : (after (at200 0xC300)).rng = 1 ∧ (after (at200 0xC300)).pc = 0x0202 := by decide

-- M1.
theorem test_ldI : (after (at200 0xA123)).i = 0x0123 := by decide

-- M2, M3.
theorem test_addI :
    (after (((at200 0xF11E).setI 0x0FFE).setReg 1 5)).i = 0x1003 ∧
    (after (((at200 0xF01E).setI 0xFFFF).setReg 0 1)).i = 0 := by decide

-- M4, M7.
theorem test_ldFont :
    (after ((at200 0xF229).setReg 2 7)).i = 0x0073 ∧ (after ((at200 0xF229).setReg 2 0xFF)).i = 0x054B := by decide

-- M8, M13.
theorem test_ldBcd :
    let t := after (((at200 0xF033).setReg 0 123).setI 0x0300)
    t.readByte 0x300 = 1 ∧ t.readByte 0x301 = 2 ∧ t.readByte 0x302 = 3 ∧ t.i = 0x0300 := by decide

theorem test_ldBcd_out_of_range :
    let t := after (((at200 0xF033).setReg 0 123).setI 0x0FFE)
    t.faultLatch = some ⟨.addressOutOfRange, 0x1000⟩ ∧ t.readByte 0xFFE = 0 := by decide

-- M15, M17.
theorem test_storeRegs :
    let t := after ((((at200 0xF055).setReg 0 0x11).setReg 1 0x22).setI 0x0400)
    t.readByte 0x400 = 0x11 ∧ t.readByte 0x401 = 0 ∧ t.i = 0x0400 := by decide

theorem test_storeRegs_out_of_range :
    let t := after (((at200 0xFF55).setReg 0 0x11).setI 0x0FF1)
    t.faultLatch = some ⟨.addressOutOfRange, 0x1000⟩ ∧ t.readByte 0xFF1 = 0 := by decide

-- M18.
theorem test_loadRegs :
    let t := after ((((at200 0xF265).writeBytes 0x300 [1, 2, 3, 4]).setI 0x0300).setReg 3 0x55)
    t.reg 0 = 1 ∧ t.reg 1 = 2 ∧ t.reg 2 = 3 ∧ t.reg 3 = 0x55 ∧ t.i = 0x0300 := by decide

-- M21: the second step runs the stored word.
theorem test_stored_code_runs :
    (after (after ((((at200 0xF155).setI 0x0202).setReg 0 0x60).setReg 1 7))).reg 0 = 7 := by decide +kernel

-- G1.
theorem test_cls :
    (after ((at200 0x00E0).setDisplay (Display.blank.put 63 31 true))).cell 63 31 = false := by
  decide +kernel

-- G2: clipped on the right, and W10's second draw at the corner: G9.
theorem test_drw_clips :
    let t := after ((((at200 0xD011).setReg 0 60).setI 0x0300).writeBytes 0x300 [0xFF])
    t.cell 59 0 = false ∧ t.cell 60 0 = true ∧ t.cell 63 0 = true ∧ t.cell 0 0 = false ∧ t.cell 0 1 = false ∧
    t.reg vF = 0 := by decide

theorem test_drw_collides :
    let t := after (((((at200 0xD011).setReg 0 63).setI 0x0300).writeBytes 0x300 [0xFF]).setDisplay
      (Display.blank.put 63 0 true))
    t.cell 63 0 = false ∧ t.reg vF = 1 := by decide

-- X9: the old VF is the row.
theorem test_drw_row_in_vF :
    let t := after (((((at200 0xD1F1).setReg 1 0x20).setReg vF 5).setI 0x0300).writeBytes 0x300 [0x80])
    t.cell 0x20 5 = true ∧ t.reg vF = 0 := by decide

-- G6, G10.
theorem test_drw_range :
    (after ((at200 0xD010).setI 0xFFFF)).faultLatch = none ∧
    (after ((at200 0xD013).setI 0x0FFE)).faultLatch = some ⟨.addressOutOfRange, 0x1000⟩ := by decide

-- Q6.
theorem test_frame_pixels :
    (renderFrame defaultParams (Display.blank.put 5 2 true)).pixels[133]? = some defaultParams.litColour ∧
    (renderFrame defaultParams (Display.blank.put 5 2 true)).pixels[132]? = some defaultParams.unlitColour := by decide

-- Q2: with a cap of 3 the oldest frame is dropped and the newest is consumed.
theorem test_queue :
    let f := fun b => renderFrame defaultParams (Display.blank.put b 0 true)
    enqueue 3 [f 1, f 2, f 3] (f 4) = [f 2, f 3, f 4] ∧
    (State.reset.setFrames [f 2, f 3, f 4]).newestFrame = some (f 4) := ⟨rfl, rfl⟩

-- K1, K2, K3.
theorem test_skp :
    (after (((at200 0xE19E).setKeys 0x0020).setReg 1 5)).pc = 0x0204 ∧
    (after (((at200 0xE19E).setKeys 0x0020).setReg 1 4)).pc = 0x0202 ∧
    (after (((at200 0xE19E).setKeys 0xFFFF).setReg 1 16)).pc = 0x0202 := by decide

theorem test_sknp :
    (after (((at200 0xE1A1).setKeys 0x0020).setReg 1 5)).pc = 0x0202 ∧
    (after (((at200 0xE1A1).setKeys 0xFFFF).setReg 1 16)).pc = 0x0204 := by decide

-- K4, K6.
theorem test_ldKey_waits :
    let t := after (atPc 0x020A 0xF20A)
    t.pc = 0x020A ∧ t.bc = 1 ∧ t.reg 2 = 0 := by decide

theorem test_ldKey_takes_the_lowest :
    let t := after (((at200 0xF20A).setKeys 0x8101).setReg 2 9)
    t.reg 2 = 0 ∧ t.pc = 0x0202 := by decide

-- K8, K9, K10, K11.
theorem test_key_events :
    (after (State.reset.setSchedule [.host (.press 3)])).keys = 0x0008 ∧
    (after ((State.reset.setKeys 0x0028).setSchedule [.host (.release 5)])).keys = 0x0008 ∧
    (after ((State.reset.setKeys 0x0008).setSchedule [.host (.press 16)])).keys = 0x0008 ∧
    (after ((State.reset.setKeys 0x0008).setSchedule [.host (.pressed 3)])).reply = some (.pressed true) ∧
    (after ((State.reset.setKeys 0x0008).setSchedule [.host (.pressed 99)])).reply = some (.pressed false) := by decide

-- T1, T2, T3.
theorem test_ldFromDt : (after ((at200 0xF107).setDt 0x3B)).reg 1 = 0x3B := by decide

theorem test_ldToDt : (after ((at200 0xF015).setReg 0 60)).dt = 60 := by decide

theorem test_ldToSt :
    (after ((at200 0xF318).setReg 3 2)).st = 2 ∧ (after ((at200 0xF318).setReg 3 2)).soundActive = true := by decide

-- T5, with atomic ticks.
theorem test_timerTick :
    let t := after ((atomicTicks ((at200 0x1200).setDt 1)).setSchedule [.timerTick])
    t.dt = 0 ∧ t.st = 0 := by decide

-- T7: the write is lost.
theorem test_tick_in_flight :
    let s := (((at200 0xF015).setDt 10).setReg 0 60).setSchedule [.tickRead, .engine, .tickWrite]
    (after (after s)).dt = 60 ∧ (after (after (after s))).dt = 9 := by decide

-- T10, T11.
theorem test_tick_after_stop :
    (step ((State.reset.setDt 10).setSchedule [.tickRead]) = .refused .tickReadNotEnabled) ∧
    (after ((State.reset.setTickLatch (.latched 10 0)).setSchedule [.tickWrite])).dt = 9 := ⟨rfl, by decide⟩

-- T11 from the running machine: Stop with a tick in flight returns only with the tick's write-back.
theorem test_stop_waits_for_the_tick :
    let s := (((at200 0x1200).setDt 10).setTickLatch (.latched 10 0)).setSchedule [.host .stop, .tickWrite]
    (after s).runState = .stopped ∧ (after s).reply = none ∧ (after (after s)).dt = 9 ∧
    (after (after s)).tickLatch = .idle ∧ (after (after s)).reply = some .done := by decide

-- R243, R244: the Host may run the machine again while a Stop still waits for the tick.
theorem test_run_while_stop_waits :
    let s := (((at200 0x1200).setDt 10).setTickLatch (.latched 10 0)).setSchedule [.host .stop, .host .run, .tickWrite]
    (after (after s)).runState = .running ∧ (after (after s)).tickLatch = .latched 10 0 ∧
    (after (after (after s))).dt = 9 ∧ (after (after (after s))).runState = .running := by decide

-- F4.
theorem test_load_while_running :
    step ((at200 0x1200).setSchedule [.host (.loadBuffer [])]) = .refused .loadWhileRunning := rfl

/-! ### Witnesses: concrete states that meet the hypotheses of the statements, each clause at a boundary value -/

/-- A stopped machine with a fault latched. -/
def stoppedByFault : State := (at200 0x5121).raise .invalidOpcode 0x5121

/-- A step has a next state. -/
def steps (s : State) : Bool :=
  match step s with
  | .next _ => true
  | .fault _ => false
  | .refused _ => false

theorem next_of_steps {s : State} (h : steps s = true) : step s = .next (after s) := by
  unfold steps at h
  unfold after
  split at h <;> simp_all

theorem witness_EveryEncodingDecodesBack : (Instr.jp 0x0FFF).WellFormed ∧ (Instr.drw 15 0 15).WellFormed := by decide

theorem witness_DecodedInstructionEncodesBack :
    decodeWord 0x00EE = some .ret ∧ decodeWord 0xFF65 = some (.loadRegs 15) := by decide

theorem witness_DecoderFollowsOpcodeMap :
    (∃ r ∈ opcodeRows, r.Selects 0xFF65) ∧ (∀ r ∈ opcodeRows, ¬ r.Selects 0xFFFF) ∧
    (∃ x y : Reg, x.val = (0xFF65 : Word).toNat / 256 % 16 ∧ y.val = (0xFF65 : Word).toNat / 16 % 16) :=
  ⟨by decide, by decide, 15, 6, by decide, by decide⟩

theorem witness_StepRunsTheDecodedInstruction_fault :
    EngineReady (at200 0x00EE) ∧ ¬ BadPc (at200 0x00EE) ∧ Fetches (at200 0x00EE) .ret ∧
    ∃ t, exec .ret (at200 0x00EE) = .next t ∧ t.faultLatch ≠ none :=
  ⟨⟨rfl, rfl, rfl⟩, by decide, by decide, _, rfl, by decide⟩

theorem witness_StepRunsTheDecodedInstruction_count :
    EngineReady (atPc 0x0FFE 0x6001) ∧ ¬ BadPc (atPc 0x0FFE 0x6001) ∧ Fetches (atPc 0x0FFE 0x6001) (.ldImm 0 1) ∧
    ∃ t, exec (.ldImm 0 1) (atPc 0x0FFE 0x6001) = .next t ∧ t.faultLatch = none ∧ t.bc + 1 ≠ t.params.ipf :=
  ⟨⟨rfl, rfl, rfl⟩, by decide, by decide, _, rfl, rfl, by decide⟩

theorem witness_StepRunsTheDecodedInstruction_frame :
    EngineReady ((at200 0x6001).setBc 699) ∧ ¬ BadPc ((at200 0x6001).setBc 699) ∧
    Fetches ((at200 0x6001).setBc 699) (.ldImm 0 1) ∧
    ∃ t, exec (.ldImm 0 1) ((at200 0x6001).setBc 699) = .next t ∧ t.faultLatch = none ∧ t.bc + 1 = t.params.ipf :=
  ⟨⟨rfl, rfl, rfl⟩, by decide, by decide, _, rfl, rfl, rfl⟩

theorem witness_ScheduledMoveIsTakenNext :
    (∃ (s : State) (rest : List Move) (m : Move), s.schedule = m :: rest) ∧ (at200 0x6001).schedule = [] ∧
    (∃ t, ((at200 0x6001).setSchedule [.engine, .tickRead]).schedule = .engine :: [.tickRead] ∧
      step (((at200 0x6001).setSchedule [.engine, .tickRead]).setSchedule []) = .next t) :=
  ⟨⟨State.reset.setSchedule [.host .run], [], .host .run, rfl⟩, rfl, _, rfl, next_of_steps (by decide)⟩

theorem witness_EngineStepsExactlyWhenEnabled :
    ((at200 0xFFFF).schedule = [] ∧ (at200 0xFFFF).runState = .running ∧ (at200 0xFFFF).faultLatch = none) ∧
    (State.reset.schedule = [] ∧ ¬ (State.reset.runState = .running ∧ State.reset.faultLatch = none)) := by decide

theorem witness_FetchCheckRaisesPcOutOfRange :
    (EngineReady (atPc 0x0FFF 0) ∧ BadPc (atPc 0x0FFF 0)) ∧ (EngineReady (atPc 0x01FE 0) ∧ BadPc (atPc 0x01FE 0)) ∧
    (EngineReady (at200 0x00EE) ∧ ¬ BadPc (at200 0x00EE) ∧
      ∃ t f, step (at200 0x00EE) = .next t ∧ t.faultLatch = some f) ∧
    ¬ BadPc (atPc 0x0FFE 0) ∧ BadPc (atPc 0x0201 0) :=
  ⟨by decide, by decide, ⟨⟨rfl, rfl, rfl⟩, by decide, _, _, next_of_steps (by decide), rfl⟩, by decide, by decide⟩

theorem witness_IllegalOpcodeIsFatal :
    let s := at200 0x5121
    EngineReady s ∧ ¬ BadPc s ∧
    (0x5121 : Word).toNat = 256 * (s.readByte s.pc.toNat).toNat + (s.readByte (s.pc.toNat + 1)).toNat ∧
    ∀ r ∈ opcodeRows, ¬ r.Selects 0x5121 :=
  ⟨⟨rfl, rfl, rfl⟩, by decide, by decide, by decide⟩

theorem witness_RaiseChangesNothingElse :
    ∃ t f, (at200 0x5121).schedule = [] ∧ step (at200 0x5121) = .next t ∧ t.faultLatch = some f :=
  ⟨_, _, rfl, next_of_steps (by decide), rfl⟩

theorem witness_FaultsFollowTheStageOrder :
    (∃ t, EngineReady (atPc 0x0201 0x00EE) ∧ step (atPc 0x0201 0x00EE) = .next t ∧
      t.faultLatch = some ⟨.pcOutOfRange, 0x0201⟩) ∧
    (∃ t, EngineReady (at200 0x5121) ∧ step (at200 0x5121) = .next t ∧
      t.faultLatch = some ⟨.invalidOpcode, 0x5121⟩) ∧
    (∃ t, EngineReady (at200 0x00EE) ∧ step (at200 0x00EE) = .next t ∧
      t.faultLatch = some ⟨.stackUnderflow, 0x0200⟩) ∧
    (∃ t, EngineReady (withDepth 0 (at200 0x2300)) ∧ step (withDepth 0 (at200 0x2300)) = .next t ∧
      t.faultLatch = some ⟨.stackOverflow, 0x0200⟩) ∧
    (∃ t, EngineReady ((at200 0xF033).setI 0x0FFE) ∧ step ((at200 0xF033).setI 0x0FFE) = .next t ∧
      t.faultLatch = some ⟨.addressOutOfRange, 0x1000⟩) :=
  ⟨⟨_, ⟨rfl, rfl, rfl⟩, next_of_steps (by decide), rfl⟩, ⟨_, ⟨rfl, rfl, rfl⟩, next_of_steps (by decide), rfl⟩,
    ⟨_, ⟨rfl, rfl, rfl⟩, next_of_steps (by decide), rfl⟩, ⟨_, ⟨rfl, rfl, rfl⟩, next_of_steps (by decide), rfl⟩,
    ⟨_, ⟨rfl, rfl, rfl⟩, next_of_steps (by decide), rfl⟩⟩

theorem witness_DefaultAdvanceIsTwo :
    (∃ t, exec (.ldImm 0 1) (at200 0) = .next t ∧ (at200 0).faultLatch = none ∧ t.faultLatch = none) ∧
    (∃ t, exec (.skp 0) (at200 0) = .next t ∧ (at200 0).faultLatch = none ∧ t.faultLatch = none) ∧
    (∃ t, exec (.ldKey 0) (at200 0) = .next t ∧ (at200 0).faultLatch = none ∧ t.faultLatch = none) :=
  ⟨⟨_, rfl, rfl, rfl⟩, ⟨_, rfl, rfl, rfl⟩, ⟨_, rfl, rfl, rfl⟩⟩

theorem witness_EveryBatchEndsWithOneFrame :
    (∃ t, ((at200 0x6001).setBc 698).schedule = [] ∧ step ((at200 0x6001).setBc 698) = .next t ∧
      t.faultLatch = none ∧ ((at200 0x6001).setBc 698).bc + 1 ≠ ((at200 0x6001).setBc 698).params.ipf) ∧
    (∃ t, ((at200 0x6001).setBc 699).schedule = [] ∧ step ((at200 0x6001).setBc 699) = .next t ∧
      t.faultLatch = none ∧ ((at200 0x6001).setBc 699).bc + 1 = ((at200 0x6001).setBc 699).params.ipf) :=
  ⟨⟨_, rfl, next_of_steps (by decide), rfl, by decide⟩, ⟨_, rfl, next_of_steps (by decide), rfl, rfl⟩⟩

theorem witness_ConstructionValues : (79 < 80) ∧ (0x04F < 0x050 ∨ 0x0A0 ≤ 0x04F) ∧ (0x0A0 < 0x050 ∨ 0x0A0 ≤ 0x0A0) := by
  decide

theorem witness_ParametersNeverChange : ∃ t, step (at200 0x6001) = .next t := ⟨_, next_of_steps (by decide)⟩

/-- A state that a run can be in: registers, stack, one buffered frame, memory written, a tick in flight. -/
def midRun : State :=
  (((at200 0x2300).setStack [0x0202]).setFrames [renderFrame defaultParams Display.blank]).setTickLatch (.latched 1 0)

theorem midRun_steps : step midRun = .next (after midRun) := next_of_steps (by decide +kernel)

theorem witness_StepKeepsInvariant : ∃ t, midRun.Inv ∧ step midRun = .next t := by
  refine ⟨_, ⟨by decide, by decide, by decide, ?_, fun h => absurd rfl h, (fun h => nomatch h),
    (fun h => nomatch h), (fun d h => nomatch h)⟩,
    midRun_steps⟩
  intro f hf c hc
  obtain rfl := List.mem_singleton.mp hf
  obtain ⟨b, -, rfl⟩ := List.mem_map.mp hc
  cases b
  · exact .inr rfl
  · exact .inl rfl

/-- A call about to run, with a return address on the stack. -/
def aboutToCall : State := (at200 0x2300).setStack [0x0202]

theorem aboutToCall_steps : step aboutToCall = .next (after aboutToCall) := next_of_steps (by decide)

theorem witness_StepKeepsPcBounded : ∃ t, aboutToCall.PcBounded ∧ step aboutToCall = .next t := by
  refine ⟨_, ⟨by decide, fun a ha => ?_⟩, aboutToCall_steps⟩
  obtain rfl := List.mem_singleton.mp ha
  decide

theorem witness_StepKeepsReturnsAligned :
    ∃ t, aboutToCall.ReturnsAligned ∧ aboutToCall.params.fetchCheck = .strict ∧ step aboutToCall = .next t := by
  refine ⟨_, fun _ a ha => ?_, rfl, aboutToCall_steps⟩
  obtain rfl := List.mem_singleton.mp ha
  decide

theorem witness_ConstructionMeetsInvariants : Params.Valid { defaultParams with ipf := 1, frameCap := 1 } := by decide

theorem witness_ReachableStatesMeetInvariants : ∃ s, Reachable s ∧ s.runState = .running :=
  ⟨_, .next [.host .run] (.construct defaultParams (by decide)) rfl, rfl⟩

theorem witness_ReturnPopsOrUnderflows :
    (at200 0x00EE).stack = [] ∧ ((at200 0x00EE).setStack [0x0202]).stack = 0x0202 :: [] := by decide

theorem witness_JumpsSetPc : Word.isAddr12 0x0FFF := by decide

theorem witness_CallPushesReturnAddress :
    Word.isAddr12 0x0FFF ∧ (withDepth 0 State.reset).params.stackDepth = some (withDepth 0 State.reset).stack.length ∧
    (withDepth 1 State.reset).params.stackDepth ≠ some (withDepth 1 State.reset).stack.length ∧
    State.reset.params.stackDepth ≠ some State.reset.stack.length := by decide

theorem witness_SkipsOnRegisters : 0 < 15 ∧ 15 ≤ 15 := by decide

theorem witness_AddSetsCarry : (0 : Reg) ≠ vF := by decide

theorem witness_SubFloorsAtZero : (14 : Reg) ≠ vF := by decide

theorem witness_SubnWraps : (14 : Reg) ≠ vF := by decide

theorem witness_ShiftsByOne :
    (∃ a : Byte, a = if State.reset.params.shiftSource = .x then State.reset.reg 0 else State.reset.reg 1) ∧
    (0 : Reg) ≠ vF := ⟨⟨_, rfl⟩, by decide⟩

theorem witness_OnlyFlagWritersWriteTheFlag :
    (∃ t, exec (.addReg 0 1) (at200 0) = .next t ∧ (at200 0).faultLatch = none ∧ t.faultLatch = none) ∧
    (∃ t, exec (.ldImm 0 1) (at200 0) = .next t ∧ (at200 0).faultLatch = none ∧ t.faultLatch = none) ∧
    (∃ t, exec .cls (at200 0) = .next t ∧ (at200 0).faultLatch = none ∧ t.faultLatch = none) :=
  ⟨⟨_, rfl, rfl, rfl⟩, ⟨_, rfl, rfl, rfl⟩, ⟨_, rfl, rfl, rfl⟩⟩

theorem witness_IndexLoads : Word.isAddr12 0x0FFF := by decide

theorem witness_BcdStoresThreeDigits :
    (State.reset.setI 0x0FFD).i.toNat + 2 ≤ 0x0FFF ∧ 0x0FFF < (State.reset.setI 0x0FFE).i.toNat + 2 := by decide

theorem witness_StoreRegistersToMemory :
    (State.reset.setI 0x0FF0).i.toNat + (15 : Reg).val ≤ 0x0FFF ∧
    0x0FFF < (State.reset.setI 0x0FF1).i.toNat + (15 : Reg).val := by decide

theorem witness_LoadRegistersFromMemory :
    (State.reset.setI 0x0FF0).i.toNat + (15 : Reg).val ≤ 0x0FFF ∧
    0x0FFF < (State.reset.setI 0x0FF1).i.toNat + (15 : Reg).val := by decide

theorem witness_StoreThenLoadRestoresRegisters :
    ∃ t, (State.reset.setI 0x0FF0).i.toNat + (15 : Reg).val ≤ 0x0FFF ∧
      exec (.storeRegs 15) (State.reset.setI 0x0FF0) = .next t :=
  ⟨_, by decide, rfl⟩

theorem witness_StoredCodeIsFetchedNext :
    (atPc 0x0FFC 0xFF55).pc.toNat + 3 ≤ 0x0FFF ∧ ((atPc 0x0FFC 0xFF55).setI 0x0FF0).i.toNat + (15 : Reg).val ≤ 0x0FFF ∧
    ((atPc 0x0FFC 0xF033).setI 0x0FFD).i.toNat + 2 ≤ 0x0FFF := by decide

theorem witness_EachStateHasItsWriters :
    (∃ t, exec (.ldI 1) (at200 0) = .next t ∧ t.i ≠ (at200 0).i) ∧
    (∃ t, exec (.call 0x300) (at200 0) = .next t ∧ t.stack ≠ (at200 0).stack) ∧
    (∃ t, exec (.ldToDt 0) ((at200 0).setReg 0 1) = .next t ∧ t.dt ≠ ((at200 0).setReg 0 1).dt) ∧
    (∃ t, exec (.ldToSt 0) ((at200 0).setReg 0 1) = .next t ∧ t.st ≠ ((at200 0).setReg 0 1).st) ∧
    (∃ t, exec .cls ((at200 0).setDisplay (Display.blank.put 0 0 true)) = .next t ∧
      t.display ≠ ((at200 0).setDisplay (Display.blank.put 0 0 true)).display) ∧
    (∃ t, exec (.rnd 0 0) (at200 0) = .next t ∧ t.rng ≠ (at200 0).rng) ∧
    (∃ t, exec (.ldBcd 0) ((at200 0).setReg 0 1) = .next t ∧ ∃ a, t.readByte a ≠ ((at200 0).setReg 0 1).readByte a) ∧
    (∃ t r, exec (.ldImm 15 1) (at200 0) = .next t ∧ t.reg r ≠ (at200 0).reg r) :=
  ⟨⟨_, rfl, by decide⟩, ⟨_, rfl, by decide⟩, ⟨_, rfl, by decide⟩, ⟨_, rfl, by decide⟩, ⟨_, rfl, by decide +kernel⟩,
    ⟨_, rfl, by decide⟩, ⟨_, rfl, 2, by decide⟩, ⟨_, 15, rfl, by decide⟩⟩

theorem witness_DrawXorsTheClippedSprite :
    let s := (at200 0xD015).setDisplay (Display.blank.put 63 31 true)
    (15 ≤ 15) ∧ (0 = 0 ∨ (s.setI 0xFFFF).i.toNat + 0 - 1 ≤ 0x0FFF) ∧
    (15 = 0 ∨ (s.setI 0x0FF1).i.toNat + 15 - 1 ≤ 0x0FFF) ∧ (0 < 15 ∧ 0x0FFF < (s.setI 0x0FF2).i.toNat + 15 - 1) := by
  decide

theorem witness_DrawXorsTheClippedSprite_collision :
    let s := ((((at200 0xD011).setReg 0 63).setReg 1 31).setI 0x0050).setDisplay (Display.blank.put 63 31 true)
    (∃ px py, px < 64 ∧ py < 32 ∧ s.cell px py = true ∧ spriteBit s 0 1 1 px py = true) ∧
    (∀ px py, px < 64 → py < 32 → (at200 0xD011).cell px py = true → spriteBit (at200 0xD011) 0 1 1 px py = false) :=
  ⟨⟨63, 31, by decide, by decide, by decide +kernel, by decide +kernel⟩, fun px py _ _ h => by
    have : (at200 0xD011).cell px py = false := Display.lit_blank px py
    rw [this] at h
    cases h⟩

theorem witness_DrawingTwiceRestoresTheDisplay :
    ∃ t u, (0 : Reg) ≠ vF ∧ (1 : Reg) ≠ vF ∧ exec (.drw 0 1 5) ((at200 0).setI 0x050) = .next t ∧
      exec (.drw 0 1 5) t = .next u ∧ t.reg vF = 0 ∧ u.reg vF = 1 :=
  ⟨_, _, by decide, by decide, rfl, rfl, by decide +kernel, by decide +kernel⟩

theorem witness_FrameShowsTheDisplay : (63 < 64) ∧ (31 < 32) := by decide

theorem witness_QueueDropsOldestAndConsumesNewest :
    let f := renderFrame defaultParams Display.blank
    let s := State.reset.setSchedule [.host .consumeFrame]
    (s.schedule = .host .consumeFrame :: [] ∧ s.frames = []) ∧
    ((s.setFrames [f, f]).schedule = .host .consumeFrame :: [] ∧ (s.setFrames [f, f]).frames = [f] ++ [f]) ∧ 1 ≤ 1 :=
  ⟨⟨rfl, rfl⟩, ⟨rfl, rfl⟩, by decide⟩

theorem witness_KeyWaitRetriesOrStoresLeastKey :
    State.reset.keys = 0 ∧ (State.reset.setKeys 0x8000).keys ≠ 0 := by decide

theorem witness_KeyEventsUpdateOneBit :
    (State.reset.setSchedule [.host (.press 15)]).schedule = .host (.press 15) :: [] ∧
    (State.reset.setSchedule [.host (.release 16)]).schedule = .host (.release 16) :: [] ∧
    (State.reset.setSchedule [.host (.pressed 16)]).schedule = .host (.pressed 16) :: [] := ⟨rfl, rfl, rfl⟩

theorem witness_OnlyKeyEventsChangeTheMask :
    ∃ t, step (State.reset.setSchedule [.host (.press 15)]) = .next t ∧
      t.keys ≠ (State.reset.setSchedule [.host (.press 15)]).keys :=
  ⟨_, next_of_steps (by decide), by decide⟩

theorem witness_OnlyKeyInstructionsReadTheMask :
    (∀ x, Instr.ldFromDt 0 ≠ .skp x) ∧ (∀ x, Instr.ldFromDt 0 ≠ .sknp x) ∧ (∀ x, Instr.ldFromDt 0 ≠ .ldKey x) := by
  decide

theorem witness_AtomicTickDecrementsBothTimers :
    let s := (atomicTicks (at200 0)).setSchedule [.timerTick]
    s.schedule = .timerTick :: [] ∧ s.params.tickAtomic = true ∧ s.runState = .running ∧
    (s.setRunState .stopped).runState ≠ .running ∧
    (((at200 0).setSchedule [.timerTick]).schedule = .timerTick :: [] ∧
      ((at200 0).setSchedule [.timerTick]).params.tickAtomic = false) := ⟨rfl, rfl, rfl, by decide, rfl, rfl⟩

theorem witness_TwoStepTickLatchesThenWritesBack :
    let s := (at200 0).setSchedule [.tickRead]
    let r := ((at200 0).setTickLatch (.latched 0 255)).setSchedule [.tickWrite]
    s.params.tickAtomic = false ∧ s.schedule = .tickRead :: [] ∧ s.runState = .running ∧ s.tickLatch = .idle ∧
    (s.setRunState .idle).runState ≠ .running ∧ (atomicTicks s).params.tickAtomic = true ∧
    (s.setSchedule [.tickWrite]).schedule = .tickWrite :: [] ∧ (s.setSchedule [.tickWrite]).tickLatch = .idle ∧
    r.schedule = .tickWrite :: [] ∧ r.tickLatch = .latched 0 255 ∧ r.stopPending = false ∧
    (r.setStopPending true).stopPending = true :=
  ⟨rfl, rfl, rfl, rfl, by decide, rfl, rfl, rfl, rfl, rfl, rfl, rfl⟩

theorem witness_TickInFlightOverwritesTimerWrite :
    (at200 0).params.tickAtomic = false ∧ (at200 0).runState = .running ∧ (at200 0).tickLatch = .idle := ⟨rfl, rfl, rfl⟩

theorem witness_RunAndStop :
    (stoppedByFault.setSchedule [.host .run]).schedule = .host .run :: [] ∧
    (stoppedByFault.setSchedule [.host .run]).runState ≠ .running ∧
    ((at200 0).setSchedule [.host .stop]).schedule = .host .stop :: [] ∧
    ((at200 0).setSchedule [.host .stop]).runState = .running ∧
    ((at200 0).setSchedule [.host .stop]).tickLatch = .idle ∧
    ((at200 0).setTickLatch (.latched 0 255)).tickLatch ≠ .idle := ⟨rfl, by decide, rfl, rfl, rfl, by decide⟩

theorem witness_LoadCopiesRomOrRefuses :
    (∀ rom, (State.reset.setSchedule [.host (.loadBuffer rom)]).schedule = .host (.loadBuffer rom) :: []) ∧
    State.reset.runState ≠ .running ∧ (List.replicate 3584 (0 : Byte)).length ≤ 3584 ∧
    3584 < (List.replicate 3585 (0 : Byte)).length :=
  ⟨fun _ => rfl, by decide, by rw [List.length_replicate], by rw [List.length_replicate]; decide⟩

theorem witness_LoadFileAndLoadWhileRunning :
    (State.reset.setSchedule [.host (.loadFile (.bytes [1]))]).schedule = .host (.loadFile (.bytes [1])) :: [] ∧
    (State.reset.setSchedule [.host (.loadFile (.ioError 2))]).schedule = .host (.loadFile (.ioError 2)) :: [] ∧
    State.reset.runState ≠ .running ∧
    ((at200 0).setSchedule [.host (.loadFile (.ioError 2))]).schedule = .host (.loadFile (.ioError 2)) :: [] ∧
    ((at200 0).setSchedule [.host (.loadFile (.ioError 2))]).runState = .running :=
  ⟨rfl, rfl, by decide, rfl, rfl⟩

theorem witness_StopReturnsAfterTheTickInFlight :
    let s := (at200 0).setTickLatch (.latched 0 255)
    let p := after (s.setSchedule [.host .stop])
    s.runState = .running ∧ s.tickLatch = .latched 0 255 ∧ p.stopPending = true ∧ p.tickLatch = .latched 0 255 ∧
    steps (p.setSchedule [.host .run]) = true ∧ steps (p.setSchedule [.tickWrite]) = true := by decide

theorem witness_HostWritesOnlyItsOwn :
    (State.reset.runState ≠ .running ∧ (∀ rom, HostOp.run ≠ .loadBuffer rom) ∧ ∀ file, HostOp.run ≠ .loadFile file) ∧
    (∃ t, (State.reset.setSchedule [.host (.loadBuffer [1])]).schedule = .host (.loadBuffer [1]) :: [] ∧
      step (State.reset.setSchedule [.host (.loadBuffer [1])]) = .next t) ∧
    0x1FF < 0x200 ∧ (State.reset.setSchedule [.host .readFault]).schedule = .host .readFault :: [] :=
  ⟨⟨by decide, nofun, nofun⟩, ⟨_, rfl, next_of_steps (by decide)⟩, by decide, rfl⟩

end Sys2Proof.Tests
end

/-! PROOFS of the scope family (spec/00_scope.md): what every step of every agent keeps, and so what every reachable state
meets. An invariant is shown to be kept by each part a step is made of (`KeptByParts`); that it is then kept by the whole
step and holds in every reachable state is proved once. -/

namespace Sys2Proof.Machine

/-! ### What a Host operation can do -/

/-- What a Host operation does when it has a next state, with the guard of each effect (60_exceptions.md R244 to R249). -/
inductive HostEffect (s : State) : State → Prop where
  /-- It only answers. -/
  | answered (r : HostReply) : HostEffect s (s.setReply (some r))
  /-- A load copies a ROM that fits. -/
  | loaded (rom : List Byte) (hr : s.runState ≠ .running) (fits : rom.length ≤ 3584) :
      HostEffect s ((s.writeBytes 0x200 rom).setReply (some .done))
  /-- A key event updates the mask. -/
  | keyEvent (keys : BitVec 16) : HostEffect s ((s.setKeys keys).setReply (some .done))
  /-- The frame queue is emptied. -/
  | consumed : HostEffect s ((s.setFrames []).setReply (some (.frame s.newestFrame)))
  /-- `Run` starts a machine that was not running. -/
  | started (hr : s.runState ≠ .running) :
      HostEffect s ((((s.setRunState .running).setFaultLatch none).setBc 0).setReply (some .done))
  /-- `Stop` returns at once. -/
  | stopped (hr : s.runState = .running) (idle : s.tickLatch = .idle) :
      HostEffect s ((s.setRunState .stopped).setReply (some .done))
  /-- `Stop` waits for the tick in flight. -/
  | stopWaits (hr : s.runState = .running) (inFlight : s.tickLatch ≠ .idle) :
      HostEffect s ((s.setRunState .stopped).setStopPending true)

theorem HostEffect.ofLoad {rom : List Byte} {s t : State} (h : hostLoad rom s = .next t) : HostEffect s t := by
  obtain ⟨hr, ⟨fits, rfl⟩ | ⟨-, rfl⟩⟩ := hostLoad_cases h
  · exact .loaded rom hr fits
  · exact .answered _

/-- Every Host operation has one of these effects. -/
theorem hostStep_effect {op : HostOp} {s t : State} (h : hostStep op s = .next t) : HostEffect s t := by
  cases op with
  | loadBuffer rom => exact .ofLoad h
  | loadFile file =>
    cases file with
    | bytes rom => exact .ofLoad h
    | ioError code =>
      obtain ⟨-, rfl⟩ := loadStep_cases h
      exact .answered _
  | run =>
    obtain ⟨-, rfl⟩ | ⟨hr, rfl⟩ := hostRun_cases h
    · exact .answered _
    · exact .started hr
  | stop =>
    cases h
    obtain ⟨hr, idle, e⟩ | ⟨hr, inFlight, e⟩ | ⟨-, e⟩ := stopRun_cases s <;> rw [e]
    · exact .stopped hr idle
    · exact .stopWaits hr inFlight
    · exact .answered _
  | consumeFrame => cases h; exact .consumed
  | press | release => cases h; exact .keyEvent _
  | pressed | readFault => cases h; exact .answered _

/-! ### What only the Engine writes -/

/-- `t` agrees with `s` on the parameters and on what no agent but the Engine writes. -/
structure SameEngineState (s t : State) : Prop where
  params : t.params = s.params
  v : t.v = s.v
  i : t.i = s.i
  pc : t.pc = s.pc
  stack : t.stack = s.stack
  display : t.display = s.display
  rng : t.rng = s.rng

theorem HostEffect.sameEngineState {s t : State} (h : HostEffect s t) : SameEngineState s t := by
  cases h <;> exact ⟨rfl, rfl, rfl, rfl, rfl, rfl, rfl⟩

/-- A step of the TimerPair or of the Host leaves the Engine's state alone (00_scope.md R5). -/
theorem moveStep_sameEngineState {m : Move} {s t : State} (hm : m ≠ .engine) (h : moveStep m s = .next t) :
    SameEngineState s t := by
  cases m with
  | engine => exact absurd rfl hm
  | tickRead =>
    obtain ⟨-, -, -, rfl⟩ := tickRead_cases h
    exact ⟨rfl, rfl, rfl, rfl, rfl, rfl, rfl⟩
  | tickWrite =>
    obtain ⟨d, e, -, rfl⟩ := tickWrite_cases h
    constructor <;> simp
  | timerTick =>
    obtain ⟨-, -, rfl⟩ := timerTick_cases h
    exact ⟨rfl, rfl, rfl, rfl, rfl, rfl, rfl⟩
  | host op => exact (hostStep_effect h).sameEngineState

@[simp] theorem State.countStep_params (s : State) : s.countStep.params = s.params := by
  unfold State.countStep; split <;> rfl
@[simp] theorem State.countStep_pc (s : State) : s.countStep.pc = s.pc := by unfold State.countStep; split <;> rfl
@[simp] theorem State.countStep_stack (s : State) : s.countStep.stack = s.stack := by
  unfold State.countStep; split <;> rfl

/-! ### Invariants, part by part -/

/-- `P` is kept by each part that the steps of the three agents are made of. -/
structure KeptByParts (P : State → Prop) : Prop where
  schedule : ∀ {s : State} (ms : List Move), P s → P (s.setSchedule ms)
  raise : ∀ {s : State} (c : FaultCode) (w : Word), P s → P (s.raise c w)
  /-- An instruction that was fetched from an accepted `pc` and took no fault. -/
  exec : ∀ {s t : State} {i : Instr}, P s → s.pcRefused = false → decodeWord s.fetch = some i → exec i s = .next t →
    SameControl s t → P t
  count : ∀ {s : State}, P s → P s.countStep
  /-- A step of the TimerPair or of the Host. -/
  others : ∀ {s t : State} {m : Move}, P s → m ≠ .engine → moveStep m s = .next t → P t

namespace KeptByParts

variable {P : State → Prop} {s t : State}

theorem engineStep (k : KeptByParts P) (hs : P s) (h : engineStep s = .next t) : P t := by
  obtain ⟨-, -, ⟨-, rfl⟩ | ⟨-, -, rfl⟩ | ⟨hp, i, hd, ⟨c, w, -, -, rfl⟩ | ⟨u, hu, hc, rfl⟩⟩⟩ := engineStep_cases h
  · exact k.raise _ _ hs
  · exact k.raise _ _ hs
  · exact k.raise _ _ hs
  · exact k.count (k.exec hs hp hd hu hc)

/-- Every step of every agent keeps it. -/
theorem step (k : KeptByParts P) (hs : P s) (h : step s = .next t) : P t := by
  obtain ⟨-, he⟩ | ⟨m, ms, -, hm⟩ := step_cases h
  · exact k.engineStep hs he
  · by_cases e : m = .engine
    · subst e
      exact k.engineStep (k.schedule ms hs) hm
    · exact k.others (k.schedule ms hs) e hm

/-- What holds after construction and is kept by every part of a step holds in every reachable state. -/
theorem reachable (k : KeptByParts P) (init : ∀ p : Params, p.Valid → P (State.construct p)) (h : Reachable s) : P s := by
  induction h with
  | construct p hp => exact init p hp
  | next sched _ hstep ih => exact k.step (k.schedule sched ih) hstep

end KeptByParts

/-! ### The parameters -/

theorem params_keptByParts (p : Params) : KeptByParts fun s => s.params = p where
  schedule _ h := h
  raise _ _ h := h
  exec h _ _ _ hc := hc.params.trans h
  count h := (State.countStep_params _).trans h
  others h hm hstep := (moveStep_sameEngineState hm hstep).params.trans h

theorem step_params {s t : State} (h : step s = .next t) : t.params = s.params :=
  (params_keptByParts s.params).step rfl h

/-- Settles O15: the parameters are kept by each part of a step. -/
theorem parametersNeverChange : Obligations.ParametersNeverChange := fun _ _ => step_params

/-! ### The bounds on the program counter -/

namespace State.PcBounded

variable {s t : State}

theorem congr (h : s.PcBounded) (pc : t.pc = s.pc) (stack : t.stack = s.stack) : t.PcBounded :=
  ⟨pc ▸ h.pc, stack ▸ h.stack⟩

/-- From a fetched instruction on, control stays bounded: an advance or skip starts at 0x0FFE at most, a jump's target
has 12 bits and a jump with offset adds one byte to it. -/
theorem exec {i : Instr} (h : s.PcBounded) (hp : s.pcRefused = false) (hd : decodeWord s.fetch = some i)
    (hx : exec i s = .next t) : t.PcBounded := by
  have hpc : s.pc.toNat ≤ 0x0FFE := (State.pcRefused_eq_false.mp hp).1
  cases exec_control hx with
  | onward pc stack =>
    refine ⟨?_, stack ▸ h.stack⟩
    rcases pc with e | e | e <;> rw [e] <;> bv_omega
  | ret _ stack =>
    have hs := h.stack
    rw [stack, List.forall_mem_cons] at hs
    exact ⟨by omega, hs.2⟩
  | call nnn hi pc stack _ =>
    have hn := decodeWord_isAddr12 (.inr (.inl (hi ▸ hd)))
    refine ⟨by rw [pc]; omega, ?_⟩
    rw [stack, List.forall_mem_cons]
    exact ⟨by bv_omega, h.stack⟩
  | jp nnn hi pc stack =>
    have hn := decodeWord_isAddr12 (.inl (hi ▸ hd))
    exact ⟨by rw [pc]; omega, stack ▸ h.stack⟩
  | jpV0 nnn hi pc stack =>
    have hn := decodeWord_isAddr12 (.inr (.inr (hi ▸ hd)))
    exact ⟨by rw [pc]; bv_omega, stack ▸ h.stack⟩

theorem keptByParts : KeptByParts State.PcBounded where
  schedule _ h := ⟨h.pc, h.stack⟩
  raise _ _ h := ⟨h.pc, h.stack⟩
  exec h hp hd hx _ := h.exec hp hd hx
  count h := h.congr (State.countStep_pc _) (State.countStep_stack _)
  others h hm hstep :=
    have e := moveStep_sameEngineState hm hstep
    h.congr e.pc e.stack

theorem construct (p : Params) : (State.construct p).PcBounded :=
  ⟨show (0x0200 : Word).toNat ≤ 0x10FE by decide, nofun⟩

end State.PcBounded

/-! ### The return addresses -/

namespace State.ReturnsAligned

variable {s t : State}

theorem congr (h : s.ReturnsAligned) (params : t.params = s.params) (stack : t.stack = s.stack) : t.ReturnsAligned := by
  unfold State.ReturnsAligned at *
  rwa [params, stack]

/-- Only a call pushes, and it pushes the successor of a `pc` that the strict check accepted. -/
theorem exec {i : Instr} (h : s.ReturnsAligned) (hp : s.pcRefused = false) (hx : exec i s = .next t)
    (params : t.params = s.params) : t.ReturnsAligned := by
  cases exec_control hx with
  | onward _ stack | jp _ _ _ stack | jpV0 _ _ _ stack => exact h.congr params stack
  | ret _ stack =>
    intro hc
    have hs := h (params ▸ hc)
    rw [stack, List.forall_mem_cons] at hs
    exact hs.2
  | call nnn _ _ stack _ =>
    intro hc
    rw [params] at hc
    obtain ⟨hpc, hstrict⟩ := State.pcRefused_eq_false.mp hp
    obtain ⟨even, low⟩ := hstrict hc
    rw [stack, List.forall_mem_cons]
    have hnext : (s.pc + 2).toNat = s.pc.toNat + 2 := by bv_omega
    exact ⟨by omega, h hc⟩

theorem keptByParts : KeptByParts State.ReturnsAligned where
  schedule _ h := h
  raise _ _ h := h
  exec h hp _ hx hc := h.exec hp hx hc.params
  count h := h.congr (State.countStep_params _) (State.countStep_stack _)
  others h hm hstep :=
    have e := moveStep_sameEngineState hm hstep
    h.congr e.params e.stack

theorem construct (p : Params) : (State.construct p).ReturnsAligned := fun _ => nofun

end State.ReturnsAligned

/-! ### The invariant of State.Inv -/

/-- An instruction keeps a finite stack within its depth: only a call pushes, and only where there is room
(41_control_flow.md R112). -/
theorem exec_stack_bounded {i : Instr} {s t : State} (hx : exec i s = .next t) {d : Nat}
    (hd : s.params.stackDepth = some d) (h : s.stack.length ≤ d) : t.stack.length ≤ d := by
  cases exec_control hx with
  | onward _ stack | jp _ _ _ stack | jpV0 _ _ _ stack => rwa [stack]
  | ret _ stack =>
    rw [stack, List.length_cons] at h
    omega
  | call _ _ _ stack room =>
    have : d ≠ s.stack.length := fun e => room (e ▸ hd)
    rw [stack, List.length_cons]
    omega

namespace State.Inv

variable {s t : State}

theorem setSchedule (h : s.Inv) (ms : List Move) : (s.setSchedule ms).Inv := { h with }

theorem setReply (h : s.Inv) (r : Option HostReply) : (s.setReply r).Inv := { h with }

theorem setKeys (h : s.Inv) (k : BitVec 16) : (s.setKeys k).Inv := { h with }

theorem setTimers (h : s.Inv) (d e : Byte) : ((s.setDt d).setSt e).Inv := { h with }

theorem writeBytes (h : s.Inv) (a : Nat) (bs : List Byte) : (s.writeBytes a bs).Inv :=
  { h with mem := State.wf_writeBytes s a bs h.mem }

/-- A new queue must keep to the cap and the two colours (10_state.md R33, 44_display_frame.md R185). -/
theorem setFrames (h : s.Inv) {q : List Frame} (cap : q.length ≤ s.params.frameCap)
    (colours : ∀ f ∈ q, Frame.TwoColoured s.params f) : (s.setFrames q).Inv :=
  { h with frames := cap, colours := colours }

theorem setBc (h : s.Inv) {k : Nat} (hk : k < s.params.ipf) : (s.setBc k).Inv := { h with bc := hk }

theorem setStopped (h : s.Inv) : (s.setRunState .stopped).Inv := { h with fault := fun _ => rfl }

theorem setStopPending (h : s.Inv) (b : Bool) (inFlight : b = true → s.tickLatch ≠ .idle) :
    (s.setStopPending b).Inv := { h with stop := inFlight }

theorem raise (h : s.Inv) (c : FaultCode) (w : Word) : (s.raise c w).Inv := { h with fault := fun _ => rfl }

/-- `Run` clears the latch together with leaving the stop (60_exceptions.md R244). -/
theorem start (h : s.Inv) : ((s.setRunState .running).setFaultLatch none).Inv :=
  { h with fault := fun hf => absurd rfl hf }

/-- A tick goes in flight only where ticks are not atomic (46_timers.md R219). -/
theorem latchTick (h : s.Inv) (d e : Byte) (ha : s.params.tickAtomic = false) :
    (s.setTickLatch (.latched d e)).Inv :=
  { h with
    tick := fun hat => absurd (ha.symm.trans hat) Bool.false_ne_true
    stop := fun _ => nofun }

/-- The tick's write-back releases a Stop that waited for it (60_exceptions.md R245). -/
theorem writeTick (h : s.Inv) : (s.setTickLatch .idle).stopReturns.Inv where
  mem := by simpa using h.mem
  bc := by simpa using h.bc
  frames := by simpa using h.frames
  colours := by simpa using h.colours
  fault := by simpa using h.fault
  tick := by simp
  stop := by simp
  stack := by simpa using h.stack

/-- Counting a step stays below `IPF`, and the frame that ends a batch keeps to the cap and the colours
(40_execution_cycle.md R99). -/
theorem countStep (h : s.Inv) : s.countStep.Inv := by
  have hbc := h.bc
  obtain ⟨hne, e⟩ | ⟨heq, e⟩ := s.countStep_cases <;> rw [e]
  · exact h.setBc (by omega)
  · refine (h.setFrames ?_ fun f hf => ?_).setBc (by simp only [State.setFrames_params]; omega)
    · rw [length_enqueue]
      omega
    · obtain hf | rfl := mem_enqueue hf
      · exact h.colours f hf
      · exact fun c hc => mem_pixels_renderFrame hc

/-- An instruction that takes no fault writes of the invariant's fields only memory and the stack. -/
theorem exec {i : Instr} (h : s.Inv) (hx : exec i s = .next t) (hc : SameControl s t) : t.Inv where
  mem := exec_wf hx h.mem
  bc := by rw [hc.bc, hc.params]; exact h.bc
  frames := by rw [hc.frames, hc.params]; exact h.frames
  colours := by rw [hc.frames, hc.params]; exact h.colours
  fault := by rw [hc.faultLatch, hc.runState]; exact h.fault
  tick := by rw [hc.tickLatch, hc.params]; exact h.tick
  stop := by rw [hc.tickLatch, hc.stopPending]; exact h.stop
  stack d hd := by
    rw [hc.params] at hd
    exact exec_stack_bounded hx hd (h.stack d hd)

theorem hostEffect (h : s.Inv) (e : HostEffect s t) : t.Inv := by
  cases e with
  | answered r => exact h.setReply _
  | loaded rom _ _ => exact (h.writeBytes _ _).setReply _
  | keyEvent keys => exact (h.setKeys _).setReply _
  | consumed => exact (h.setFrames (Nat.zero_le _) (List.forall_mem_nil _)).setReply _
  | started _ => exact (h.start.setBc (Nat.zero_lt_of_lt h.bc)).setReply _
  | stopped _ _ => exact h.setStopped.setReply _
  | stopWaits _ inFlight => exact h.setStopped.setStopPending true fun _ => inFlight

/-- A step of the TimerPair or of the Host keeps it. -/
theorem others {m : Move} (h : s.Inv) (hm : m ≠ .engine) (hstep : moveStep m s = .next t) : t.Inv := by
  cases m with
  | engine => exact absurd rfl hm
  | tickRead =>
    obtain ⟨ha, -, -, rfl⟩ := tickRead_cases hstep
    exact h.latchTick _ _ ha
  | tickWrite =>
    obtain ⟨d, e, -, rfl⟩ := tickWrite_cases hstep
    exact (h.setTimers _ _).writeTick
  | timerTick =>
    obtain ⟨-, -, rfl⟩ := timerTick_cases hstep
    exact h.setTimers _ _
  | host op => exact h.hostEffect (hostStep_effect hstep)

theorem keptByParts : KeptByParts State.Inv where
  schedule ms h := h.setSchedule ms
  raise c w h := h.raise c w
  exec h _ _ hx hc := h.exec hx hc
  count h := h.countStep
  others h hm hstep := h.others hm hstep

theorem construct {p : Params} (hp : p.Valid) : (State.construct p).Inv where
  mem := rfl
  bc := hp.1
  frames := Nat.zero_le _
  colours := nofun
  fault hf := absurd rfl hf
  tick _ := rfl
  stop := nofun
  stack _ _ := Nat.zero_le _

end State.Inv

/-- Settles O20: each of the three invariants holds after construction and is kept by every part of a step. -/
theorem reachableStatesMeetInvariants : Obligations.ReachableStatesMeetInvariants := fun _ h =>
  ⟨State.Inv.keptByParts.reachable (fun _ => State.Inv.construct) h,
    State.PcBounded.keptByParts.reachable (fun p _ => State.PcBounded.construct p) h,
    State.ReturnsAligned.keptByParts.reachable (fun p _ => State.ReturnsAligned.construct p) h⟩

end Sys2Proof.Machine

/-! PROOFS of the state family (spec/10_state.md): the values after construction, the invariants of the state, and which
instruction writes or reads each piece of it. -/

namespace Sys2Proof.Machine

/-! ### The invariants of the state (10_state.md R25, R26, R33, R34, R38) -/

/-- Settles O16: State.Inv is kept by every part that a step is made of. -/
theorem stepKeepsInvariant : Obligations.StepKeepsInvariant := fun _ _ => State.Inv.keptByParts.step

/-- Settles O17: State.PcBounded is kept by every part that a step is made of. -/
theorem stepKeepsPcBounded : Obligations.StepKeepsPcBounded := fun _ _ => State.PcBounded.keptByParts.step

/-- Settles O19: each invariant holds after construction, and the default parameters are valid. -/
theorem constructionMeetsInvariants : Obligations.ConstructionMeetsInvariants :=
  have hdefault : defaultParams.Valid := by decide
  ⟨fun p hp => ⟨State.Inv.construct hp, State.PcBounded.construct p, State.ReturnsAligned.construct p⟩, hdefault,
    State.Inv.construct hdefault⟩

/-! ### The values after construction (10_state.md R40, R41) -/

theorem State.readByte_construct (p : Params) (a : Nat) : (State.construct p).readByte a = constructionByte p a := rfl

/-- The font lies from `FONT_BASE` on (R41). -/
theorem constructionByte_font (p : Params) {a : Nat} (h : a < 80) : constructionByte p (0x050 + a) = p.font[a] := by
  simp [constructionByte, h]

/-- Outside the font every byte is zero (R40). -/
theorem constructionByte_outside_font (p : Params) {a : Nat} (h : a < 0x050 ∨ 0x0A0 ≤ a) :
    constructionByte p a = 0 := by
  unfold constructionByte
  split
  · have hlen : 80 ≤ a - Config.fontBase := by simp only [Config.fontBase] at *; omega
    rw [Vector.getElem?_eq_none hlen, Option.getD_none]
  · rfl

theorem State.reg_construct (p : Params) (r : Reg) : (State.construct p).reg r = 0 := by
  simp [State.reg, State.construct]

/-- Settles O14: the fields are read off the construction, the display is the blank one and memory its construction
bytes. -/
theorem constructionValues : Obligations.ConstructionValues := fun p =>
  ⟨rfl, State.reg_construct p, rfl, rfl, rfl, rfl, rfl, rfl, Display.lit_blank,
    fun _ ha => (State.readByte_construct p _).trans (constructionByte_font p ha),
    fun _ ha => (State.readByte_construct p _).trans (constructionByte_outside_font p ha), rfl, rfl, rfl, rfl, rfl⟩

/-! ### The flag (10_state.md R22) -/

/-- An instruction after which no fault is latched changed at most what it may change (40_execution_cycle.md R98). -/
theorem exec_frame_of_no_fault {i : Instr} {s t : State} (h : exec i s = .next t) (ht : t.faultLatch = none) :
    FrameHolds (mayChange s i) s t := by
  obtain ⟨c, w, -, rfl⟩ | hf := exec_frame h
  · cases ht
  · exact hf

/-- `VF` as a flag is 0 or 1 (10_state.md R22). -/
theorem State.setVF_flag (s : State) (f : Bool) : (s.setVF f).reg vF = 0 ∨ (s.setVF f).reg vF = 1 := by
  cases f <;> simp [flagByte]

/-- A draw that raises nothing ends with a flag in `VF` (44_display_frame.md R181). -/
theorem execDrw_flag {x y : Reg} {n : Nat} {s t : State} (h : execDrw x y n s = .next t) (ht : t.faultLatch = none) :
    t.reg vF = 0 ∨ t.reg vF = 1 := by
  unfold execDrw at h
  split at h <;> cases h
  · cases ht
  · exact State.setVF_flag _ _

/-- Settles O33: the six flag writers write the flag last, and the frame of each other instruction names `VF` only where
an operand does. -/
theorem onlyFlagWritersWriteTheFlag : Obligations.OnlyFlagWritersWriteTheFlag := by
  intro i s t h _ ht
  have frame := exec_frame_of_no_fault h ht
  cases i with
  | addReg | subReg | shrReg | subnReg | shlReg => cases h; exact State.setVF_flag _ _
  | drw => exact execDrw_flag h ht
  | ldImm | addImm | rnd | ldReg | orReg | andReg | xorReg | ldFromDt | ldKey =>
    exact fun hx => frame.regs vF (decide_eq_false hx.symm)
  | loadRegs x => exact fun hx => frame.regs vF (decide_eq_false fun hle => hx (Fin.last_le_iff.mp hle))
  | _ => exact frame.regs vF rfl

/-! ### The writers of each piece of state (10_state.md R21 to R32) -/

/-- The registers, the memory and the other state that instructions write differ between `s` and `t` only where `c` says
so: the part of a frame that holds of a raise too. -/
structure ChangesOnly (c : Changes) (s t : State) : Prop where
  regs : ∀ r, t.reg r ≠ s.reg r → c.regs r = true
  i : t.i ≠ s.i → c.i = true
  stack : t.stack ≠ s.stack → c.stack = true
  dt : t.dt ≠ s.dt → c.dt = true
  st : t.st ≠ s.st → c.st = true
  display : t.display ≠ s.display → c.display = true
  rng : t.rng ≠ s.rng → c.rng = true
  mem : ∀ a, t.readByte a ≠ s.readByte a → c.mem a = true

theorem ChangesOnly.raise (c : Changes) (s : State) (code : FaultCode) (info : Word) :
    ChangesOnly c s (s.raise code info) where
  regs _ h := absurd rfl h
  i h := absurd rfl h
  stack h := absurd rfl h
  dt h := absurd rfl h
  st h := absurd rfl h
  display h := absurd rfl h
  rng h := absurd rfl h
  mem _ h := absurd rfl h

theorem FrameHolds.changesOnly {c : Changes} {s t : State} (f : FrameHolds c s t) : ChangesOnly c s t where
  regs r h := Bool.of_not_eq_false fun e => h (f.regs r e)
  i h := Bool.of_not_eq_false fun e => h (f.i e)
  stack h := Bool.of_not_eq_false fun e => h (f.stack e)
  dt h := Bool.of_not_eq_false fun e => h (f.dt e)
  st h := Bool.of_not_eq_false fun e => h (f.st e)
  display h := Bool.of_not_eq_false fun e => h (f.display e)
  rng h := Bool.of_not_eq_false fun e => h (f.rng e)
  mem a h := Bool.of_not_eq_false fun e => h (f.mem a e)

theorem exec_changesOnly {i : Instr} {s t : State} (h : exec i s = .next t) : ChangesOnly (mayChange s i) s t := by
  obtain ⟨c, w, -, rfl⟩ | hf := exec_frame h
  · exact .raise ..
  · exact hf.changesOnly

section Writers

variable {s : State} {i : Instr}

theorem index_writers (h : (mayChange s i).i = true) :
    (∃ nnn, i = .ldI nnn) ∨ (∃ x, i = .addI x) ∨ (∃ x, i = .ldFont x) := by
  cases i with
  | ldI nnn => exact .inl ⟨nnn, rfl⟩
  | addI x => exact .inr (.inl ⟨x, rfl⟩)
  | ldFont x => exact .inr (.inr ⟨x, rfl⟩)
  | _ => cases h

theorem stack_writers (h : (mayChange s i).stack = true) : i = .ret ∨ ∃ nnn, i = .call nnn := by
  cases i with
  | ret => exact .inl rfl
  | call nnn => exact .inr ⟨nnn, rfl⟩
  | _ => cases h

theorem dt_writers (h : (mayChange s i).dt = true) : ∃ x, i = .ldToDt x := by
  cases i with
  | ldToDt x => exact ⟨x, rfl⟩
  | _ => cases h

theorem st_writers (h : (mayChange s i).st = true) : ∃ x, i = .ldToSt x := by
  cases i with
  | ldToSt x => exact ⟨x, rfl⟩
  | _ => cases h

theorem display_writers (h : (mayChange s i).display = true) : i = .cls ∨ ∃ x y n, i = .drw x y n := by
  cases i with
  | cls => exact .inl rfl
  | drw x y n => exact .inr ⟨x, y, n, rfl⟩
  | _ => cases h

theorem rng_writers (h : (mayChange s i).rng = true) : ∃ x nn, i = .rnd x nn := by
  cases i with
  | rnd x nn => exact ⟨x, nn, rfl⟩
  | _ => cases h

theorem mem_writers {a : Nat} (h : (mayChange s i).mem a = true) : (∃ x, i = .ldBcd x) ∨ ∃ x, i = .storeRegs x := by
  cases i with
  | ldBcd x => exact .inl ⟨x, rfl⟩
  | storeRegs x => exact .inr ⟨x, rfl⟩
  | _ => cases h

end Writers

/-- An instruction that changes the run state or the latch took a fault (60_exceptions.md R236). -/
theorem exec_runState {i : Instr} {s t : State} (h : exec i s = .next t) :
    (t.runState = s.runState ∧ t.faultLatch = s.faultLatch) ∨ ∃ code info, FaultTaken code info s t := by
  obtain ⟨c, w, -, rfl⟩ | hc := exec_cases h
  · exact .inr ⟨c, w, rfl⟩
  · exact .inl ⟨hc.runState, hc.faultLatch⟩

/-- Settles O41: what changed is in the frame of the instruction, and the frame names its writers; the control state
changes only by a fault taken. -/
theorem eachStateHasItsWriters : Obligations.EachStateHasItsWriters := by
  intro i s t h
  have changes := exec_changesOnly h
  refine ⟨fun hi => index_writers (changes.i hi), fun hk => stack_writers (changes.stack hk),
    fun hd => dt_writers (changes.dt hd), fun hs => st_writers (changes.st hs),
    fun hd => display_writers (changes.display hd), fun hg => rng_writers (changes.rng hg),
    fun ⟨a, ha⟩ => mem_writers (changes.mem a ha), fun r hr => ?_, ?_⟩
  · have hw := changes.regs r hr
    cases i with
    | ldImm | addImm | rnd | ldReg | orReg | andReg | xorReg | ldFromDt | ldKey | drw | loadRegs =>
      exact of_decide_eq_true hw
    | addReg | subReg | shrReg | subnReg | shlReg => simpa [mayChange, onlyRegAndFlag] using hw
    | _ => cases hw
  · have hrun := exec_runState h
    obtain ⟨c, w, -, rfl⟩ | hc := exec_cases h
    · exact ⟨rfl, rfl, rfl, rfl, rfl, rfl, rfl, rfl, hrun⟩
    · exact ⟨hc.keys, hc.frames, hc.bc, hc.tickLatch, hc.params, hc.schedule, hc.reply, hc.stopPending, hrun⟩

/-! ### The readers of the keypad mask (10_state.md R29) -/

theorem State.setKeys_stackFull (s : State) (m : BitVec 16) : (s.setKeys m).stackFull = s.stackFull := rfl

/-- An instruction that does not ask for keys commutes with setting the mask: the branches of the others look at the
stack or at the range of `I` alone. -/
theorem exec_setKeys {i : Instr} (hskp : ∀ x, i ≠ .skp x) (hsknp : ∀ x, i ≠ .sknp x) (hldKey : ∀ x, i ≠ .ldKey x)
    (s : State) (m : BitVec 16) : ∃ t, exec i s = .next t ∧ exec i (s.setKeys m) = .next (t.setKeys m) := by
  cases i with
  | skp x => exact absurd rfl (hskp x)
  | sknp x => exact absurd rfl (hsknp x)
  | ldKey x => exact absurd rfl (hldKey x)
  | call =>
    simp only [exec, execCall]
    rw [State.setKeys_stackFull]
    split <;> exact ⟨_, rfl, rfl⟩
  | ret | drw | ldBcd | storeRegs | loadRegs =>
    simp only [exec, execRet, execDrw, execLdBcd, execStoreRegs, execLoadRegs, State.setKeys_stack, State.setKeys_i]
    split <;> exact ⟨_, rfl, rfl⟩
  | _ => exact ⟨_, rfl, rfl⟩

/-- Settles O51: the two executions are the same up to the mask. -/
theorem onlyKeyInstructionsReadTheMask : Obligations.OnlyKeyInstructionsReadTheMask :=
  fun _ s m hskp hsknp hldKey => exec_setKeys hskp hsknp hldKey s m

end Sys2Proof.Machine

/-! PROOFS of the memory family (spec/20_memory.md): what a run of stores leaves at each address, and what the fetch that
follows it reads. -/

namespace Sys2Proof.Machine

/-! ### Stores that stay in memory (20_memory.md R56) -/

/-- `Fx33` with its three bytes in memory (43_index_memory.md R163). -/
theorem exec_ldBcd_in_memory {x : Reg} {s : State} (h : s.i.toNat + 2 ≤ 0x0FFF) :
    exec (.ldBcd x) s = .next (s.writeBytes s.i.toNat (bcdDigits (s.reg x))).advance := by
  have hrange : firstBadAddress s.i 3 = none := firstBadAddress_eq_none.mpr (.inr (by omega))
  simp only [exec, execLdBcd, hrange]

/-- `Fx55` with its `x + 1` bytes in memory (43_index_memory.md R164). -/
theorem exec_storeRegs_in_memory {x : Reg} {s : State} (h : s.i.toNat + x.val ≤ 0x0FFF) :
    exec (.storeRegs x) s = .next (s.writeBytes s.i.toNat (s.regsUpTo x)).advance := by
  have hrange : firstBadAddress s.i (x.val + 1) = none := firstBadAddress_eq_none.mpr (.inr (by omega))
  simp only [exec, execStoreRegs, hrange]

/-! ### The byte at an address after a store at `I` (20_memory.md R55, R59) -/

/-- Every byte of memory after a run of stores at `I`. -/
theorem State.readByte_writeBytes_index (s : State) (bs : List Byte) {a : Nat} (ha : a ≤ 0x0FFF) :
    (s.writeBytes s.i.toNat bs).readByte a = byteAfterStore s bs bs.length a := by
  have hmem : a < Config.memSize := Nat.lt_succ_of_le ha
  simp only [State.readByte_writeBytes, byteAfterStore, hmem, and_true]

/-- Only the bytes that are stored count. -/
theorem byteAfterStore_take (s : State) (bs : List Byte) (n a : Nat) :
    byteAfterStore s (bs.take n) n a = byteAfterStore s bs n a := by
  unfold byteAfterStore
  split
  · have hk : a - s.i.toNat < n := by omega
    rw [List.getD_eq_getElem?_getD, List.getD_eq_getElem?_getD, List.getElem?_take_of_lt hk]
  · rfl

/-! ### The fetch after a store (20_memory.md R53, R63) -/

/-- The high byte comes first (R53). -/
theorem opcodeOfBytes_toNat (hi lo : Byte) : (opcodeOfBytes hi lo).toNat = 256 * hi.toNat + lo.toNat := by
  rw [opcodeOfBytes, toNat_append]
  omega

/-- The successor of a `pc` whose next opcode lies in memory. -/
theorem State.advance_pc_toNat {s : State} (h : s.pc.toNat + 3 ≤ 0x0FFF) : s.advance.pc.toNat = s.pc.toNat + 2 := by
  simp only [State.advance_eq, State.setPc_pc]
  bv_omega

/-- After a run of stores at `I` and the default advance the fetch reads the memory that the stores left (R63). -/
theorem State.fetch_advance_writeBytes {s : State} (bs : List Byte) (h : s.pc.toNat + 3 ≤ 0x0FFF) :
    (s.writeBytes s.i.toNat bs).advance.fetch.toNat =
      256 * (byteAfterStore s bs bs.length (s.pc.toNat + 2)).toNat +
        (byteAfterStore s bs bs.length (s.pc.toNat + 3)).toNat := by
  have hpc : (s.writeBytes s.i.toNat bs).advance.pc.toNat = s.pc.toNat + 2 := State.advance_pc_toNat h
  rw [State.fetch, opcodeOfBytes_toNat, hpc, State.advance_eq, State.setPc_readByte, State.setPc_readByte,
    s.readByte_writeBytes_index bs (by omega), s.readByte_writeBytes_index bs (by omega)]

/-- Settles O40: both instructions are a run of stores at `I` and the default advance. -/
theorem storedCodeIsFetchedNext : Obligations.StoredCodeIsFetchedNext := by
  intro x s hpc
  refine ⟨fun hr => ⟨_, exec_storeRegs_in_memory hr, State.advance_pc_toNat hpc, ?_⟩,
    fun hr => ⟨_, exec_ldBcd_in_memory hr, State.advance_pc_toNat hpc, State.fetch_advance_writeBytes _ hpc⟩⟩
  have hfetch := State.fetch_advance_writeBytes (s.regsUpTo x) hpc
  rwa [State.length_regsUpTo, State.regsUpTo, byteAfterStore_take, byteAfterStore_take] at hfetch

end Sys2Proof.Machine

/-! PROOFS of the encoding family (spec/30_encoding.md): the decoder inverts the encoder, the encoder inverts the decoder,
and the decoder follows the opcode map, whose rows exclude each other. -/

namespace Sys2Proof

/-! ### Decoding an encoded instruction (30_encoding.md R70 to R73) -/

/-- The decoder gives back the instruction that an opcode was encoded from, operands included. -/
theorem decodeWord_encode {i : Instr} (h : i.WellFormed) : decodeWord (encode i) = some i := by
  cases i with
  | cls | ret => rfl
  | jp nnn | call nnn | ldI nnn | jpV0 nnn =>
    have haddr : Word.isAddr12 nnn := of_decide_eq_true h
    simp [encode, decodeWord, opNnn_encodeA _ _ haddr]
  | seImm x nn | sneImm x nn | ldImm x nn | addImm x nn | rnd x nn => simp [encode, decodeWord]
  | seReg x y | sneReg x y => simp [encode, decodeWord]
  | ldReg x y | orReg x y | andReg x y | xorReg x y | addReg x y | subReg x y | shrReg x y | subnReg x y | shlReg x y =>
    simp [encode, decodeWord, decodeFamily8]
  | drw x y n =>
    have hcount : n ≤ 15 := of_decide_eq_true h
    have hn : n % 16 = n := Nat.mod_eq_of_lt (by omega)
    simp [encode, decodeWord, hn]
  | skp x | sknp x => simp [encode, decodeWord, decodeFamilyE]
  | ldFromDt x | ldKey x | ldToDt x | ldToSt x | addI x | ldFont x | ldBcd x | storeRegs x | loadRegs x =>
    simp [encode, decodeWord, decodeFamilyF]

/-- The bytes of an opcode decode as the opcode does, whatever follows them (20_memory.md R53). -/
theorem decode_bytesOfOpcode_append {op : Word} {i : Instr} (h : decodeWord op = some i) (rest : List Byte) :
    decode (bytesOfOpcode op ++ rest) = .ok (i, rest) := by
  simp [bytesOfOpcode, decode, h]

/-- Settles O1: decoding inverts encoding on the opcode, and the bytes of an opcode read back as the opcode. -/
theorem everyEncodingDecodesBack : Obligations.EveryEncodingDecodesBack := fun _ h =>
  ⟨decodeWord_encode h, decode_bytesOfOpcode_append (decodeWord_encode h)⟩

/-! ### An opcode put together again from its fields (30_encoding.md R72) -/

theorem isAddr12_opNnn (op : Word) : Word.isAddr12 (opNnn op) := by
  have := opNnn_toNat op
  show (opNnn op).toNat ≤ 0x0FFF
  omega

theorem isCount4_opN (op : Word) : isCount4 (opN op) := by
  have := opN_eq op
  show opN op ≤ 15
  omega

theorem encodeA_fields {op : Word} {f : BitVec 4} (hf : opFamily op = f.toNat) : encodeA f (opNnn op) = op := by
  rw [opFamily_eq] at hf
  apply BitVec.eq_of_toNat_eq
  rw [encodeA_toNat, opNnn_toNat]
  omega

theorem encodeXI_fields {op : Word} {f : BitVec 4} (hf : opFamily op = f.toNat) :
    encodeXI f (opX op) (opNn op) = op := by
  rw [opFamily_eq] at hf
  apply BitVec.eq_of_toNat_eq
  rw [encodeXI_toNat, opX_val, opNn_toNat]
  omega

theorem encodeXY_fields {op : Word} {f n : BitVec 4} (hf : opFamily op = f.toNat) (hn : opN op = n.toNat) :
    encodeXY f (opX op) (opY op) n = op := by
  rw [opFamily_eq] at hf
  rw [opN_eq] at hn
  apply BitVec.eq_of_toNat_eq
  rw [encodeXY_toNat, opX_val, opY_val]
  omega

theorem opN_eq_toNat_ofNat (op : Word) : opN op = (BitVec.ofNat 4 (opN op)).toNat := by
  have : opN op ≤ 15 := isCount4_opN op
  rw [BitVec.toNat_ofNat, Nat.mod_eq_of_lt (by omega)]

/-! ### Encoding a decoded instruction (30_encoding.md R75 to R82) -/

/-- `i` is an instruction some opcode stands for, and `op` is its opcode. -/
abbrev EncodesTo (i : Instr) (op : Word) : Prop := i.WellFormed ∧ encode i = op

theorem decodeFamily0_encodesTo {op : Word} {i : Instr} (h : decodeFamily0 op = some i) : EncodesTo i op := by
  unfold decodeFamily0 at h
  split_ifs at h with hcls hret
  · cases h; exact ⟨rfl, hcls.symm⟩
  · cases h; exact ⟨rfl, hret.symm⟩

theorem decodeFamily8_encodesTo {x y : Reg} {n : Nat} {i : Instr} (h : decodeFamily8 x y n = some i) :
    EncodesTo i (encodeXY 0x8#4 x y (BitVec.ofNat 4 n)) := by
  unfold decodeFamily8 at h
  split at h <;> cases h <;> exact ⟨rfl, rfl⟩

theorem decodeFamilyE_encodesTo {x : Reg} {nn : Nat} {i : Instr} (h : decodeFamilyE x nn = some i) :
    EncodesTo i (encodeXI 0xE#4 x (BitVec.ofNat 8 nn)) := by
  unfold decodeFamilyE at h
  split at h <;> cases h <;> exact ⟨rfl, rfl⟩

theorem decodeFamilyF_encodesTo {x : Reg} {nn : Nat} {i : Instr} (h : decodeFamilyF x nn = some i) :
    EncodesTo i (encodeXI 0xF#4 x (BitVec.ofNat 8 nn)) := by
  unfold decodeFamilyF at h
  split at h <;> cases h <;> exact ⟨rfl, rfl⟩

/-- What the decoder gives encodes back to the opcode it came from (R82). -/
theorem decodeWord_encodesTo {op : Word} {i : Instr} (h : decodeWord op = some i) : EncodesTo i op := by
  have hnn : BitVec.ofNat 8 (opNn op).toNat = opNn op := by simp
  have hn := opN_eq_toNat_ofNat op
  unfold decodeWord at h
  split at h
  -- Case `h_k` is family `k - 1`. Families 0, 8, E and F branch once more.
  case h_1 => exact decodeFamily0_encodesTo h
  case h_9 hf =>
    simpa only [encodeXY_fields (f := 0x8#4) hf hn] using decodeFamily8_encodesTo h
  case h_15 hf =>
    simpa only [hnn, encodeXI_fields (f := 0xE#4) hf] using decodeFamilyE_encodesTo h
  case h_16 hf =>
    simpa only [hnn, encodeXI_fields (f := 0xF#4) hf] using decodeFamilyF_encodesTo h
  -- Each other family is one instruction, by format: `A`, `XI`, `XY` and `XYN`.
  case h_2 hf | h_3 hf | h_11 hf | h_12 hf =>
    cases h
    exact ⟨decide_eq_true (isAddr12_opNnn op), encodeA_fields hf⟩
  case h_4 hf | h_5 hf | h_7 hf | h_8 hf | h_13 hf =>
    cases h
    exact ⟨rfl, encodeXI_fields hf⟩
  case h_6 hf | h_10 hf =>
    split at h <;> cases h
    exact ⟨rfl, encodeXY_fields hf ‹_›⟩
  case h_14 hf =>
    cases h
    exact ⟨decide_eq_true (isCount4_opN op), encodeXY_fields hf hn⟩
  case h_17 => cases h

/-- Settles O2, family by family. -/
theorem decodedInstructionEncodesBack : Obligations.DecodedInstructionEncodesBack := fun _ _ => decodeWord_encodesTo

/-! ### The fields of an opcode that a match and mask fix (30_encoding.md R70) -/

section Mask

variable {op m mask : Word}

theorem opFamily_of_and (h : op &&& mask = m) (hmask : mask &&& 0xF000#16 = 0xF000#16) : opFamily op = opFamily m := by
  have hop := and_F000_toNat op
  have hm := and_F000_toNat m
  rw [← h, BitVec.and_assoc, hmask, h] at hm
  rw [opFamily_eq, opFamily_eq]
  omega

theorem opN_of_and (h : op &&& mask = m) (hmask : mask &&& 0x000F#16 = 0x000F#16) : opN op = opN m := by
  rw [opN_eq, opN_eq, ← and_000F_toNat, ← and_000F_toNat, ← h, BitVec.and_assoc, hmask]

theorem opNn_of_and (h : op &&& mask = m) (hmask : mask &&& 0x00FF#16 = 0x00FF#16) : opNn op = opNn m := by
  apply BitVec.eq_of_toNat_eq
  rw [opNn_toNat, opNn_toNat, ← and_00FF_toNat, ← and_00FF_toNat, ← h, BitVec.and_assoc, hmask]

end Mask

/-! ### The rows of the opcode map (30_encoding.md R70) -/

namespace OpcodeRow

/-- Every opcode that the row selects is the opcode of the instruction that the row builds from its fields. -/
def EncodesSelected (r : OpcodeRow) : Prop :=
  ∀ op : Word, r.Selects op → EncodesTo (r.build (opX op) (opY op) (opN op) (opNn op) (opNnn op)) op

namespace EncodesSelected

/-! A row of match `m`, by the format of its encoding in family `f`: `A`, `XI`, `X`, `XY`, `XYN` (R72). The match is the
encoding with every operand zero. -/

variable {m : Word} (f : BitVec 4)

/-- A row that selects one opcode (R75). -/
theorem word {i : Instr} (hi : EncodesTo i m) : EncodesSelected ⟨m, 0xFFFF, fun _ _ _ _ _ => i⟩ := by
  intro op (h : op &&& 0xFFFF#16 = m)
  have hop : op = m := BitVec.and_allOnes.symm.trans h
  rwa [hop]

theorem formatA {c : Word → Instr} (hm : m = encodeA f 0)
    (hc : ∀ nnn, Word.isAddr12 nnn → EncodesTo (c nnn) (encodeA f nnn)) :
    EncodesSelected ⟨m, 0xF000, fun _ _ _ _ nnn => c nnn⟩ := by
  intro op (h : op &&& 0xF000#16 = m)
  have hf : opFamily op = f.toNat := by rw [opFamily_of_and h rfl, hm, opFamily_encodeA]
  simpa only [encodeA_fields hf] using hc _ (isAddr12_opNnn op)

theorem formatXI {c : Reg → Byte → Instr} (hm : m = encodeXI f 0 0)
    (hc : ∀ x nn, EncodesTo (c x nn) (encodeXI f x nn)) :
    EncodesSelected ⟨m, 0xF000, fun x _ _ nn _ => c x nn⟩ := by
  intro op (h : op &&& 0xF000#16 = m)
  have hf : opFamily op = f.toNat := by rw [opFamily_of_and h rfl, hm, opFamily_encodeXI]
  simpa only [encodeXI_fields hf] using hc (opX op) (opNn op)

theorem formatX (nn : Byte) {c : Reg → Instr} (hm : m = encodeXI f 0 nn)
    (hc : ∀ x, EncodesTo (c x) (encodeXI f x nn)) : EncodesSelected ⟨m, 0xF0FF, fun x _ _ _ _ => c x⟩ := by
  intro op (h : op &&& 0xF0FF#16 = m)
  have hf : opFamily op = f.toNat := by rw [opFamily_of_and h rfl, hm, opFamily_encodeXI]
  have hnn : opNn op = nn := by rw [opNn_of_and h rfl, hm, opNn_encodeXI]
  simpa only [← hnn, encodeXI_fields hf] using hc (opX op)

theorem formatXY (n : BitVec 4) {c : Reg → Reg → Instr} (hm : m = encodeXY f 0 0 n)
    (hc : ∀ x y, EncodesTo (c x y) (encodeXY f x y n)) : EncodesSelected ⟨m, 0xF00F, fun x y _ _ _ => c x y⟩ := by
  intro op (h : op &&& 0xF00F#16 = m)
  have hf : opFamily op = f.toNat := by rw [opFamily_of_and h rfl, hm, opFamily_encodeXY]
  have hn : opN op = n.toNat := by rw [opN_of_and h rfl, hm, opN_encodeXY]
  simpa only [encodeXY_fields hf hn] using hc (opX op) (opY op)

theorem formatXYN {c : Reg → Reg → Nat → Instr} (hm : m = encodeXY f 0 0 0)
    (hc : ∀ x y n, isCount4 n → EncodesTo (c x y n) (encodeXY f x y (BitVec.ofNat 4 n))) :
    EncodesSelected ⟨m, 0xF000, fun x y n _ _ => c x y n⟩ := by
  intro op (h : op &&& 0xF000#16 = m)
  have hf : opFamily op = f.toNat := by rw [opFamily_of_and h rfl, hm, opFamily_encodeXY]
  simpa only [encodeXY_fields hf (opN_eq_toNat_ofNat op)] using hc (opX op) (opY op) _ (isCount4_opN op)

/-! The 34 rows, list by list. -/

theorem low : ∀ r ∈ opcodeRowsLow, r.EncodesSelected := by
  simp only [opcodeRowsLow, List.forall_mem_cons]
  exact ⟨word ⟨rfl, rfl⟩,
    word ⟨rfl, rfl⟩,
    formatA 0x1 rfl fun _ h => ⟨decide_eq_true h, rfl⟩,
    formatA 0x2 rfl fun _ h => ⟨decide_eq_true h, rfl⟩,
    formatXI 0x3 rfl fun _ _ => ⟨rfl, rfl⟩,
    formatXI 0x4 rfl fun _ _ => ⟨rfl, rfl⟩,
    formatXY 0x5 0x0 rfl fun _ _ => ⟨rfl, rfl⟩,
    formatXI 0x6 rfl fun _ _ => ⟨rfl, rfl⟩,
    formatXI 0x7 rfl fun _ _ => ⟨rfl, rfl⟩,
    List.forall_mem_nil _⟩

theorem alu : ∀ r ∈ opcodeRowsAlu, r.EncodesSelected := by
  simp only [opcodeRowsAlu, List.forall_mem_cons]
  exact ⟨formatXY 0x8 0x0 rfl fun _ _ => ⟨rfl, rfl⟩,
    formatXY 0x8 0x1 rfl fun _ _ => ⟨rfl, rfl⟩,
    formatXY 0x8 0x2 rfl fun _ _ => ⟨rfl, rfl⟩,
    formatXY 0x8 0x3 rfl fun _ _ => ⟨rfl, rfl⟩,
    formatXY 0x8 0x4 rfl fun _ _ => ⟨rfl, rfl⟩,
    formatXY 0x8 0x5 rfl fun _ _ => ⟨rfl, rfl⟩,
    formatXY 0x8 0x6 rfl fun _ _ => ⟨rfl, rfl⟩,
    formatXY 0x8 0x7 rfl fun _ _ => ⟨rfl, rfl⟩,
    formatXY 0x8 0xE rfl fun _ _ => ⟨rfl, rfl⟩,
    List.forall_mem_nil _⟩

theorem mid : ∀ r ∈ opcodeRowsMid, r.EncodesSelected := by
  simp only [opcodeRowsMid, List.forall_mem_cons]
  exact ⟨formatXY 0x9 0x0 rfl fun _ _ => ⟨rfl, rfl⟩,
    formatA 0xA rfl fun _ h => ⟨decide_eq_true h, rfl⟩,
    formatA 0xB rfl fun _ h => ⟨decide_eq_true h, rfl⟩,
    formatXI 0xC rfl fun _ _ => ⟨rfl, rfl⟩,
    formatXYN 0xD rfl fun _ _ _ h => ⟨decide_eq_true h, rfl⟩,
    formatX 0xE 0x9E rfl fun _ => ⟨rfl, rfl⟩,
    formatX 0xE 0xA1 rfl fun _ => ⟨rfl, rfl⟩,
    List.forall_mem_nil _⟩

theorem familyF : ∀ r ∈ opcodeRowsF, r.EncodesSelected := by
  simp only [opcodeRowsF, List.forall_mem_cons]
  exact ⟨formatX 0xF 0x07 rfl fun _ => ⟨rfl, rfl⟩,
    formatX 0xF 0x0A rfl fun _ => ⟨rfl, rfl⟩,
    formatX 0xF 0x15 rfl fun _ => ⟨rfl, rfl⟩,
    formatX 0xF 0x18 rfl fun _ => ⟨rfl, rfl⟩,
    formatX 0xF 0x1E rfl fun _ => ⟨rfl, rfl⟩,
    formatX 0xF 0x29 rfl fun _ => ⟨rfl, rfl⟩,
    formatX 0xF 0x33 rfl fun _ => ⟨rfl, rfl⟩,
    formatX 0xF 0x55 rfl fun _ => ⟨rfl, rfl⟩,
    formatX 0xF 0x65 rfl fun _ => ⟨rfl, rfl⟩,
    List.forall_mem_nil _⟩

end EncodesSelected

/-- A row of the map encodes every opcode that it selects. -/
theorem encodesSelected {r : OpcodeRow} (hr : r ∈ opcodeRows) : r.EncodesSelected := by
  simp only [opcodeRows, List.mem_append] at hr
  obtain ((hr | hr) | hr) | hr := hr
  · exact EncodesSelected.low r hr
  · exact EncodesSelected.alu r hr
  · exact EncodesSelected.mid r hr
  · exact EncodesSelected.familyF r hr

/-- A selected opcode decodes to the row's instruction: that instruction encodes to it, and decoding inverts encoding. -/
theorem decodeWord_of_selects {r : OpcodeRow} {op : Word} (hr : r ∈ opcodeRows) (h : r.Selects op) :
    decodeWord op = some (r.build (opX op) (opY op) (opN op) (opNn op) (opNnn op)) := by
  obtain ⟨hwf, henc⟩ := encodesSelected hr op h
  simpa only [henc] using decodeWord_encode hwf

/-! ### No opcode is selected by two rows -/

/-- The match bits of the two rows differ on a bit of both masks. -/
abbrev Differ (r r' : OpcodeRow) : Prop := r.matchBits &&& r'.maskBits ≠ r'.matchBits &&& r.maskBits

theorem Differ.not_both {r r' : OpcodeRow} (h : r.Differ r') (op : Word) : ¬ (r.Selects op ∧ r'.Selects op) := by
  rintro ⟨hr, hr'⟩
  apply h
  rw [← hr, ← hr', BitVec.and_assoc, BitVec.and_assoc, BitVec.and_comm r.maskBits]

end OpcodeRow

theorem opcodeRows_differ : opcodeRows.Pairwise OpcodeRow.Differ := by decide

/-! ### Every opcode that decodes is selected by a row -/

open Laws.EncodedInMap in
/-- Some row selects the opcode of each instruction. -/
theorem Laws.encodedInMap : ∀ i : Instr, EncodedInMap.Statement i
  | .cls => cls
  | .ret => ret
  | .jp nnn => jp nnn
  | .call nnn => call nnn
  | .seImm x nn => seImm x nn
  | .sneImm x nn => sneImm x nn
  | .seReg x y => seReg x y
  | .ldImm x nn => ldImm x nn
  | .addImm x nn => addImm x nn
  | .ldReg x y => ldReg x y
  | .orReg x y => orReg x y
  | .andReg x y => andReg x y
  | .xorReg x y => xorReg x y
  | .addReg x y => addReg x y
  | .subReg x y => subReg x y
  | .shrReg x y => shrReg x y
  | .subnReg x y => subnReg x y
  | .shlReg x y => shlReg x y
  | .sneReg x y => sneReg x y
  | .ldI nnn => ldI nnn
  | .jpV0 nnn => jpV0 nnn
  | .rnd x nn => rnd x nn
  | .drw x y n => drw x y n
  | .skp x => skp x
  | .sknp x => sknp x
  | .ldFromDt x => ldFromDt x
  | .ldKey x => ldKey x
  | .ldToDt x => ldToDt x
  | .ldToSt x => ldToSt x
  | .addI x => addI x
  | .ldFont x => ldFont x
  | .ldBcd x => ldBcd x
  | .storeRegs x => storeRegs x
  | .loadRegs x => loadRegs x

theorem exists_row_of_decodeWord {op : Word} {i : Instr} (h : decodeWord op = some i) :
    ∃ r ∈ opcodeRows, r.Selects op := by
  obtain ⟨-, henc⟩ := decodeWord_encodesTo h
  simpa only [Laws.EncodedInMap.Statement, henc] using Laws.encodedInMap i

/-- Settles O3: a selected opcode is the encoding of its row's instruction, and an opcode that decodes is selected. -/
theorem decoderFollowsOpcodeMap : Obligations.DecoderFollowsOpcodeMap := by
  refine ⟨rfl, fun op r hr h x y hx hy => ?_, fun op hnone => ?_, fun op => ?_⟩
  · have ex : x = opX op := Fin.ext (hx.trans (opX_val op).symm)
    have ey : y = opY op := Fin.ext (hy.trans (opY_val op).symm)
    rw [r.decodeWord_of_selects hr h, ex, ey, ← opN_eq, ← opNn_toNat, ← opNnn_toNat, BitVec.ofNat_toNat,
      BitVec.ofNat_toNat, BitVec.setWidth_eq, BitVec.setWidth_eq]
  · by_contra hsome
    obtain ⟨i, hi⟩ := Option.ne_none_iff_exists'.mp hsome
    obtain ⟨r, hr, h⟩ := exists_row_of_decodeWord hi
    exact hnone r hr h
  · exact opcodeRows_differ.imp fun h => h.not_both op

/-! ### Sample words (95_test_vectors.md section 2.1) -/

/-- Settles O4, by decoding each word. -/
theorem sampleWordsDecode : Obligations.SampleWordsDecode := by
  unfold Obligations.SampleWordsDecode
  and_intros <;> decide

end Sys2Proof

/-! PROOFS of the execution-cycle family (spec/40_execution_cycle.md): when the Engine has a step, what its step is, what
a raise and a completed step leave behind, where the program counter goes, and how a Stop waits for a tick in flight. -/

namespace Sys2Proof.Machine

/-! ### The Engine's step, stage by stage (40_execution_cycle.md R90 to R94) -/

/-- The refused program counters as the statements name them (R91). -/
theorem badPc_iff {s : State} : BadPc s ↔ s.pcRefused = true := by
  rw [← Bool.not_eq_false, State.pcRefused_eq_false, BadPc]
  cases s.params.fetchCheck with
  | strict => simp only [true_and, forall_const]; omega
  | permissive => simp

theorem State.pcRefused_of_not_badPc {s : State} (h : ¬ BadPc s) : s.pcRefused = false :=
  Bool.eq_false_iff.mpr (mt badPc_iff.mpr h)

/-- The bytes at `pc` decode as the fetched opcode does (20_memory.md R53). -/
theorem fetches_iff {s : State} {i : Instr} : Fetches s i ↔ decodeWord s.fetch = some i := by
  simp only [Fetches, decode, State.fetch]
  split <;> simp_all

theorem engineStep_of_not_enabled {s : State} (h : ¬ (s.runState = .running ∧ s.faultLatch = none)) :
    engineStep s = .fault .engineNotEnabled :=
  if_neg (mt State.engineEnabled_iff.mp h)

section Stages

variable {s t : State} (enabled : s.runState = .running ∧ s.faultLatch = none)
include enabled

/-- The fetch check comes first (R91). -/
theorem engineStep_of_refused (hp : s.pcRefused = true) : engineStep s = .next (s.raise .pcOutOfRange s.pc) := by
  simp only [engineStep, State.engineEnabled_iff.mpr enabled, hp, if_true]

theorem engineStep_of_undecodable (hp : s.pcRefused = false) (hd : decodeWord s.fetch = none) :
    engineStep s = .next (s.raise .invalidOpcode s.fetch) := by
  simp [engineStep, State.engineEnabled_iff.mpr enabled, hp, hd]

/-- A decoded instruction is executed, and what it leaves is counted unless it raised (R94, R99). -/
theorem engineStep_of_decoded {i : Instr} (hp : s.pcRefused = false) (hd : decodeWord s.fetch = some i)
    (hx : exec i s = .next t) : engineStep s = .next t.finishStep := by
  simp [engineStep, State.engineEnabled_iff.mpr enabled, hp, hd, hx]

/-- No opcode, operand or program counter stops an enabled Engine (R90). -/
theorem engineStep_next : ∃ t, engineStep s = .next t := by
  cases hp : s.pcRefused with
  | true => exact ⟨_, engineStep_of_refused enabled hp⟩
  | false =>
    cases hd : decodeWord s.fetch with
    | none => exact ⟨_, engineStep_of_undecodable enabled hp hd⟩
    | some i =>
      obtain ⟨t, hx⟩ := exec_next i s
      exact ⟨_, engineStep_of_decoded enabled hp hd hx⟩

end Stages

/-- Settles O7: an enabled Engine gets through every stage, and the others are not asked. -/
theorem engineStepsExactlyWhenEnabled : Obligations.EngineStepsExactlyWhenEnabled := by
  intro s hs
  rw [step_nil hs]
  exact ⟨engineStep_next, engineStep_of_not_enabled⟩

/-! ### The two ends of an Engine step: a raise or a count (40_execution_cycle.md R98, R99) -/

@[simp] theorem State.countStep_faultLatch (s : State) : s.countStep.faultLatch = s.faultLatch := by
  unfold State.countStep; split <;> rfl

/-- The stage that raised the fault `f` in an Engine step from `s` (60_exceptions.md R237). -/
inductive RaisedBy (s : State) (f : Latched) : Prop where
  | fetchCheck (hp : s.pcRefused = true) (hf : f = ⟨.pcOutOfRange, s.pc⟩)
  | decode (hp : s.pcRefused = false) (hd : decodeWord s.fetch = none) (hf : f = ⟨.invalidOpcode, s.fetch⟩)
  | execute (i : Instr) (hp : s.pcRefused = false) (hd : decodeWord s.fetch = some i) (hc : f.code.OfExecute)
      (hx : exec i s = .next (s.raise f.code f.info))

/-- An Engine step that ends with a fault latched is the raise of that fault at one of the stages. -/
theorem engineStep_raised {s t : State} {f : Latched} (h : engineStep s = .next t) (hf : t.faultLatch = some f) :
    t = s.raise f.code f.info ∧ RaisedBy s f := by
  obtain ⟨-, hnone, ⟨hp, rfl⟩ | ⟨hp, hd, rfl⟩ | ⟨hp, i, hd, ⟨c, w, hc, hx, rfl⟩ | ⟨u, -, hu, rfl⟩⟩⟩ :=
    engineStep_cases h
  · cases hf
    exact ⟨rfl, .fetchCheck hp rfl⟩
  · cases hf
    exact ⟨rfl, .decode hp hd rfl⟩
  · cases hf
    exact ⟨rfl, .execute i hp hd hc hx⟩
  · rw [State.countStep_faultLatch, hu.faultLatch, hnone] at hf
    cases hf

/-- An Engine step that ends with no fault latched executed one instruction and counted it. -/
theorem engineStep_completed {s t : State} (h : engineStep s = .next t) (ht : t.faultLatch = none) :
    ∃ u, SameControl s u ∧ t = u.countStep := by
  obtain ⟨-, -, ⟨-, rfl⟩ | ⟨-, -, rfl⟩ | ⟨-, i, -, ⟨c, w, -, -, rfl⟩ | ⟨u, -, hu, rfl⟩⟩⟩ := engineStep_cases h
  · cases ht
  · cases ht
  · cases ht
  · exact ⟨u, hu, rfl⟩

/-- Settles O8: the fetch check is the first stage, and neither decode nor execute raises its fault. -/
theorem fetchCheckRaisesPcOutOfRange : Obligations.FetchCheckRaisesPcOutOfRange := by
  intro s ⟨hs, enabled⟩
  rw [step_nil hs]
  refine ⟨fun hbad => ⟨_, engineStep_of_refused enabled (badPc_iff.mp hbad), rfl⟩, fun hgood t f h hf => ?_⟩
  cases (engineStep_raised h hf).2 with
  | fetchCheck hp _ => exact absurd (badPc_iff.mpr hp) hgood
  | decode _ _ hf => rw [hf]; exact nofun
  | execute _ _ _ hc _ => rcases hc with e | e | e <;> rw [e] <;> exact nofun

/-- Settles O10: such a step is a raise, which writes the latch and the run state only. -/
theorem raiseChangesNothingElse : Obligations.RaiseChangesNothingElse := by
  intro s t f hs h hf
  rw [step_nil hs] at h
  exact (engineStep_raised h hf).1

/-- Settles O13: the counted state has the control state, and so the count and the queue, of the state before. -/
theorem everyBatchEndsWithOneFrame : Obligations.EveryBatchEndsWithOneFrame := by
  intro s t hs h ht
  rw [step_nil hs] at h
  obtain ⟨u, hu, rfl⟩ := engineStep_completed h ht
  rw [← hu.bc, ← hu.params, ← hu.frames]
  obtain ⟨hne, e⟩ | ⟨heq, e⟩ := u.countStep_cases <;> rw [e]
  · exact ⟨fun _ => ⟨rfl, rfl⟩, fun heq => absurd heq hne⟩
  · exact ⟨fun hne => absurd heq hne, fun _ => ⟨rfl, rfl⟩⟩

/-- Settles O5: the step is the executed instruction with the end that R98 or R99 gives it. -/
theorem stepRunsTheDecodedInstruction : Obligations.StepRunsTheDecodedInstruction := by
  intro s t i ⟨hs, enabled⟩ hgood hfetch hx
  rw [step_nil hs, engineStep_of_decoded enabled (State.pcRefused_of_not_badPc hgood) (fetches_iff.mp hfetch) hx]
  refine ⟨fun hf => ?_, fun hf hne => ?_, fun hf heq => ?_⟩
  · rw [State.finishStep, if_neg hf]
  · rw [State.finishStep, if_pos hf, State.countStep, if_neg hne]
    rfl
  · rw [State.finishStep, if_pos hf, State.countStep, if_pos heq]
    rfl

/-! ### The program counter after an instruction (40_execution_cycle.md R95 to R97) -/

theorem State.skipIf_pc (s : State) (c : Bool) : (s.skipIf c).pc = s.pc + 2 ∨ (s.skipIf c).pc = s.pc + 4 := by
  cases c
  · exact .inl rfl
  · exact .inr rfl

/-- The key wait leaves `pc` exactly while no key is down (45_keypad.md R202). -/
theorem execLdKey_pc {x : Reg} {s t : State} (h : execLdKey x s = .next t) :
    if s.keys = 0 then t.pc = s.pc else t.pc = s.pc + 2 := by
  unfold execLdKey at h
  split at h
  case h_1 hnone =>
    cases h
    have hup : s.keys = 0 := lowestKey_eq_none.mp hnone
    rw [if_pos hup]
  case h_2 k hsome =>
    cases h
    have hdown : s.keys ≠ 0 := fun e => by simp [lowestKey_eq_none.mpr e] at hsome
    rw [if_neg hdown]
    rfl

/-- Settles O12: the instructions with a range check advance when it passes, and the others that go on advance always. -/
theorem defaultAdvanceIsTwo : Obligations.DefaultAdvanceIsTwo := by
  intro i s t h _ ht
  cases i with
  | ret | jp | call | jpV0 => trivial
  | seImm | sneImm | seReg | sneReg | skp | sknp => cases h; exact s.skipIf_pc _
  | ldKey x => exact execLdKey_pc h
  | drw | ldBcd | storeRegs | loadRegs =>
    simp only [exec, execDrw, execLdBcd, execStoreRegs, execLoadRegs] at h
    split at h <;> cases h
    · cases ht
    · simp
  | _ => cases h; rfl

/-! ### A Stop that waits for the tick in flight (60_exceptions.md R243, R245) -/

theorem State.stopRun_of_tick_in_flight {s : State} (hr : s.runState = .running) (hl : s.tickLatch ≠ .idle) :
    s.stopRun = (s.setRunState .stopped).setStopPending true := by
  rw [State.stopRun, if_pos hr, if_neg hl]

/-- A Stop waits, and the tick it waits for is in flight with the timer values `d` and `e`. -/
def State.StopWaits (d e : Byte) (s : State) : Prop := s.stopPending = true ∧ s.tickLatch = .latched d e

section StopWaits

variable {d e : Byte} {s t : State}

theorem State.StopWaits.countStep (w : s.StopWaits d e) : s.countStep.StopWaits d e := by
  obtain ⟨-, eq⟩ | ⟨-, eq⟩ := s.countStep_cases <;> rw [eq] <;> exact w

theorem State.StopWaits.engineStep (w : s.StopWaits d e) (h : engineStep s = .next t) : t.StopWaits d e := by
  cases ht : t.faultLatch with
  | none =>
    obtain ⟨u, hu, rfl⟩ := engineStep_completed h ht
    exact State.StopWaits.countStep ⟨hu.stopPending.trans w.1, hu.tickLatch.trans w.2⟩
  | some f =>
    obtain ⟨rfl, -⟩ := engineStep_raised h ht
    exact w

/-- No Host operation ends the wait: a Stop that returns at once needs an idle latch (R245). -/
theorem State.StopWaits.hostEffect (w : s.StopWaits d e) (h : HostEffect s t) : t.StopWaits d e := by
  cases h with
  | answered | loaded | keyEvent | consumed | started => exact w
  | stopped _ idle => cases w.2.symm.trans idle
  | stopWaits => exact ⟨rfl, w.2⟩

/-- Only the tick's write-back ends the wait. -/
theorem State.StopWaits.moveStep {m : Move} (w : s.StopWaits d e) (hm : m ≠ .tickWrite)
    (h : moveStep m s = .next t) : t.StopWaits d e := by
  cases m with
  | engine => exact w.engineStep h
  | tickRead =>
    obtain ⟨-, -, idle, -⟩ := tickRead_cases h
    cases w.2.symm.trans idle
  | tickWrite => exact absurd rfl hm
  | timerTick =>
    obtain ⟨-, -, rfl⟩ := timerTick_cases h
    exact w
  | host op => exact w.hostEffect (hostStep_effect h)

/-- The write-back completes the tick, and the Stop returns with it (46_timers.md R219; R245). -/
theorem State.StopWaits.tickWrite (w : s.StopWaits d e) (h : tickWrite s = .next t) :
    t.dt.toNat = d.toNat - 1 ∧ t.st.toNat = e.toNat - 1 ∧ t.tickLatch = .idle ∧ t.runState = s.runState ∧
      t.stopPending = false ∧ t.reply = some .done := by
  rw [tickWrite_next w.2, State.stopReturns_of_pending (by exact w.1)] at h
  cases h
  exact ⟨countDown_toNat d, countDown_toNat e, rfl, rfl, rfl, rfl⟩

end StopWaits

/-- Settles O60: a stopped machine enables neither the Engine nor a tick, and only the write-back ends the wait. -/
theorem stopReturnsAfterTheTickInFlight : Obligations.StopReturnsAfterTheTickInFlight := by
  refine ⟨fun s d e hr hl => ?_, fun s t d e hp hl h => ?_⟩
  · have inFlight : s.tickLatch ≠ .idle := hl ▸ nofun
    refine ⟨_, congrArg Host.Outcome.next (State.stopRun_of_tick_in_flight hr inFlight), rfl,
      engineStep_of_not_enabled fun enabled => ?_, if_neg fun enabled => ?_, if_neg fun enabled => ?_⟩
    · cases enabled.1
    · cases enabled.2.1
    · cases enabled.2
  · have w : s.StopWaits d e := ⟨hp, hl⟩
    obtain ⟨hs, he⟩ | ⟨m, ms, hs, hm⟩ := step_cases h
    · obtain ⟨pending, latch⟩ := w.engineStep he
      exact .inl ⟨pending, latch, fun rest => hs ▸ nofun⟩
    · by_cases hw : m = .tickWrite
      · subst hw
        exact .inr ⟨⟨ms, hs⟩, State.StopWaits.tickWrite (s := s.setSchedule ms) w hm⟩
      · obtain ⟨pending, latch⟩ := State.StopWaits.moveStep (s := s.setSchedule ms) w hw hm
        refine .inl ⟨pending, latch, fun rest e => hw ?_⟩
        rw [hs] at e
        exact (List.cons.inj e).1

end Sys2Proof.Machine

/-! PROOFS of the control-flow family (spec/41_control_flow.md): the return addresses on the stack, and what the return,
the call, the jumps and the skips do. Each opcode that a statement writes as a number is the encoding of its instruction,
so that decoding it is decoding an encoded instruction. -/

namespace Sys2Proof

/-! ### The opcodes of the statements, as encodings (30_encoding.md R72) -/

theorem wordA_eq_encodeA (f : BitVec 4) {nnn : Word} (h : Word.isAddr12 nnn) : wordA f.toNat nnn = encodeA f nnn := by
  have hnnn : nnn.toNat ≤ 0x0FFF := h
  apply BitVec.eq_of_toNat_eq
  rw [encodeA_toNat, wordA, BitVec.toNat_ofNat]
  omega

theorem wordXI_eq_encodeXI (f : BitVec 4) (x : Reg) (nn : Byte) : wordXI f.toNat x nn.toNat = encodeXI f x nn := by
  apply BitVec.eq_of_toNat_eq
  rw [encodeXI_toNat, wordXI, BitVec.toNat_ofNat]
  omega

theorem wordXY_eq_encodeXY (f : BitVec 4) (x y : Reg) {n : Nat} (h : isCount4 n) :
    wordXY f.toNat x y n = encodeXY f x y (BitVec.ofNat 4 n) := by
  have hn : n ≤ 15 := h
  apply BitVec.eq_of_toNat_eq
  rw [encodeXY_toNat, wordXY, BitVec.toNat_ofNat, BitVec.toNat_ofNat]
  omega

theorem decodeWord_of_eq_encode {i : Instr} {op : Word} (h : i.WellFormed) (e : op = encode i) :
    decodeWord op = some i := e ▸ decodeWord_encode h

/-- Families 5 and 9 hold an instruction only with a low nibble 0 (30_encoding.md R79). -/
theorem decodeWord_wordXY_of_low_nibble {f : BitVec 4} (hf : f = 0x5 ∨ f = 0x9) (x y : Reg) {n : Nat} (hpos : 0 < n)
    (hn : isCount4 n) : decodeWord (wordXY f.toNat x y n) = none := by
  have hle : n ≤ 15 := hn
  have hnibble : n % 16 ≠ 0 := by omega
  rw [wordXY_eq_encodeXY f x y hn]
  obtain rfl | rfl := hf <;> simp [decodeWord, hnibble]

end Sys2Proof

namespace Sys2Proof.Machine

/-- Settles O18: State.ReturnsAligned is kept by every part that a step is made of. -/
theorem stepKeepsReturnsAligned : Obligations.StepKeepsReturnsAligned := fun _ _ => State.ReturnsAligned.keptByParts.step

/-! ### The call stack (41_control_flow.md R110, R112) -/

theorem exec_ret_nil {s : State} (h : s.stack = []) : exec .ret s = .next (s.raise .stackUnderflow s.pc) := by
  simp only [exec, execRet, h]

theorem exec_ret_cons {s : State} {a : Word} {rest : List Word} (h : s.stack = a :: rest) :
    exec .ret s = .next ((s.setStack rest).setPc a) := by
  simp only [exec, execRet, h]

theorem exec_call_full {s : State} (nnn : Word) (h : s.params.stackDepth = some s.stack.length) :
    exec (.call nnn) s = .next (s.raise .stackOverflow s.pc) :=
  if_pos (decide_eq_true h)

theorem exec_call_room {s : State} (nnn : Word) (h : s.params.stackDepth ≠ some s.stack.length) :
    exec (.call nnn) s = .next ((s.setStack ((s.pc + 2) :: s.stack)).setPc nnn) :=
  if_neg (mt of_decide_eq_true h)

/-- Settles O21: a return looks at the stack alone, and either raises or pops. -/
theorem returnPopsOrUnderflows : Obligations.ReturnPopsOrUnderflows :=
  ⟨decodeWord_encode (i := .ret) rfl, fun _ => ⟨fun h => ⟨_, exec_ret_nil h, rfl⟩,
    fun _ _ h => ⟨_, exec_ret_cons h, rfl, rfl, frame_setStack ..⟩⟩⟩

/-- Settles O23: a call looks at the room on the stack, and either raises or pushes. -/
theorem callPushesReturnAddress : Obligations.CallPushesReturnAddress := by
  intro nnn s haddr
  refine ⟨decodeWord_of_eq_encode (decide_eq_true haddr) (wordA_eq_encodeA 0x2 haddr), fun full => ?_, fun room => ?_⟩
  · exact ⟨_, exec_call_full nnn full, rfl⟩
  · exact ⟨_, exec_call_room nnn room, ⟨_, rfl, BitVec.toNat_add s.pc 2⟩, rfl, frame_setStack ..⟩

/-! ### Jumps (41_control_flow.md R111, R117) -/

/-- A 12-bit address and a byte add up to at most 0x10FE, so the sum does not wrap (R117). -/
theorem State.jumpOffsetTarget_toNat (s : State) {nnn : Word} (h : Word.isAddr12 nnn) :
    (s.jumpOffsetTarget nnn).toNat = nnn.toNat + (s.reg 0).toNat := by
  have hnnn : nnn.toNat ≤ 0x0FFF := h
  unfold State.jumpOffsetTarget
  bv_omega

/-- Settles O22: a jump writes its target to `pc`, and nothing else. -/
theorem jumpsSetPc : Obligations.JumpsSetPc := by
  intro nnn s haddr
  refine ⟨⟨?_, _, rfl, rfl, frame_setPc ..⟩, ⟨?_, _, rfl, s.jumpOffsetTarget_toNat haddr, frame_setPc ..⟩⟩
  · exact decodeWord_of_eq_encode (decide_eq_true haddr) (wordA_eq_encodeA 0x1 haddr)
  · exact decodeWord_of_eq_encode (decide_eq_true haddr) (wordA_eq_encodeA 0xB haddr)

/-! ### Skips (41_control_flow.md R113 to R116) -/

theorem State.skipIf_decide_pc (s : State) (p : Prop) [Decidable p] :
    (s.skipIf (decide p)).pc = if p then s.pc + 4 else s.pc + 2 := by
  simp

theorem frame_skipIf (s : State) (c : Bool) : FrameHolds onlyPc s (s.skipIf c) := frame_setPc ..

/-- Settles O24: both are skips on their condition. -/
theorem skipsOnImmediate : Obligations.SkipsOnImmediate := by
  intro x nn s
  refine ⟨⟨?_, _, rfl, s.skipIf_decide_pc _, frame_skipIf ..⟩, ⟨?_, _, rfl, s.skipIf_decide_pc _, frame_skipIf ..⟩⟩
  · exact decodeWord_of_eq_encode rfl (wordXI_eq_encodeXI 0x3 x nn)
  · exact decodeWord_of_eq_encode rfl (wordXI_eq_encodeXI 0x4 x nn)

/-- Settles O25: both are skips on their condition, and another low nibble is no instruction of their families. -/
theorem skipsOnRegisters : Obligations.SkipsOnRegisters := by
  intro x y s
  refine ⟨⟨?_, _, rfl, s.skipIf_decide_pc _, frame_skipIf ..⟩, ⟨?_, _, rfl, s.skipIf_decide_pc _, frame_skipIf ..⟩,
    fun n hpos hn => ?_⟩
  · exact decodeWord_of_eq_encode rfl (wordXY_eq_encodeXY 0x5 x y (Nat.zero_le 15))
  · exact decodeWord_of_eq_encode rfl (wordXY_eq_encodeXY 0x9 x y (Nat.zero_le 15))
  · exact ⟨decodeWord_wordXY_of_low_nibble (.inl rfl) x y hpos hn,
      decodeWord_wordXY_of_low_nibble (.inr rfl) x y hpos hn⟩

end Sys2Proof.Machine

/-! PROOFS of the ALU family (spec/42_alu.md): what the register loads, the arithmetic, the logic, the shifts and the
random byte write. An instruction writes one result, alone or with the flag after it; what the registers then hold is read
once for each of the two, and each instruction turns on the number that its operation gives. -/

namespace Sys2Proof

/-- An opcode of family 8 decodes as its low nibble says (30_encoding.md R76). -/
theorem decodeWord_wordXY_alu (x y : Reg) {n : Nat} (h : isCount4 n) :
    decodeWord (wordXY 0x8 x y n) = decodeFamily8 x y n := by
  have hn : n % 16 = n := Nat.mod_eq_of_lt (Nat.lt_succ_of_le h)
  exact (congrArg decodeWord (wordXY_eq_encodeXY 0x8 x y h)).trans (by simp [decodeWord, hn])

end Sys2Proof

namespace Sys2Proof.Machine

/-! ### One result, no flag (42_alu.md R130 to R135, R141) -/

theorem State.reg_advance_setReg (s : State) (x : Reg) (b : Byte) : (s.setReg x b).advance.reg x = b := by simp

theorem State.reg_advance_setRng_setReg (s : State) (x : Reg) (b : Byte) (k : Nat) :
    ((s.setReg x b).setRng k).advance.reg x = b := by
  simp

/-- Settles O26: each writes its one result to `Vx`, and a sum of bytes is the sum of their numbers modulo 256. -/
theorem immediateLoadAndAdd : Obligations.ImmediateLoadAndAdd := by
  intro x nn s
  refine ⟨⟨?_, _, rfl, s.reg_advance_setReg .., rfl, frame_setReg ..⟩, ⟨?_, _, rfl, ?_, rfl, frame_setReg ..⟩⟩
  · exact decodeWord_of_eq_encode rfl (wordXI_eq_encodeXI 0x6 x nn)
  · exact decodeWord_of_eq_encode rfl (wordXI_eq_encodeXI 0x7 x nn)
  · rw [State.reg_advance_setReg]
    exact BitVec.toNat_add ..

/-- Settles O27: each writes its one result to `Vx`, and the operations on bytes act bit by bit. -/
theorem copyAndLogic : Obligations.CopyAndLogic := by
  intro x y s
  have decodes {n : Nat} (h : isCount4 n) := decodeWord_wordXY_alu x y h
  refine ⟨⟨decodes (by decide), _, rfl, s.reg_advance_setReg .., rfl, frame_setReg ..⟩,
    ⟨decodes (by decide), _, rfl, fun k _ => ?_, rfl, frame_setReg ..⟩,
    ⟨decodes (by decide), _, rfl, fun k _ => ?_, rfl, frame_setReg ..⟩,
    ⟨decodes (by decide), _, rfl, fun k _ => ?_, rfl, frame_setReg ..⟩⟩ <;> rw [State.reg_advance_setReg]
  · exact BitVec.getLsbD_or
  · exact BitVec.getLsbD_and
  · exact BitVec.getLsbD_xor

/-- Settles O32: the draw is left free; what the mask drops of it, `~nn` does not bring back. -/
theorem randomByteIsMasked : Obligations.RandomByteIsMasked := by
  intro x nn s
  refine ⟨?_, _, rfl, fun k _ => ?_, ?_, rfl, rfl, frame_rnd ..⟩
  · exact decodeWord_of_eq_encode rfl (wordXI_eq_encodeXI 0xC x nn)
  · rw [State.reg_advance_setRng_setReg]
    exact BitVec.getLsbD_and
  · rw [State.reg_advance_setRng_setReg, BitVec.and_assoc, BitVec.and_not_self]
    exact BitVec.and_zero

/-! ### A result, then the flag (42_alu.md R136 to R140, 40_execution_cycle.md R101) -/

theorem flagByte_decide (p : Prop) [Decidable p] : flagByte (decide p) = if p then 1 else 0 := by simp [flagByte]

theorem flagByte_toNat (f : Bool) : (flagByte f).toNat = f.toNat := by cases f <;> rfl

/-- An instruction that writes a result and then a flag: the flag is what `VF` holds also when it is the destination
(40_execution_cycle.md R101). -/
theorem exec_resultAndFlag {i : Instr} {s : State} {x : Reg} {r c : Byte} {f : Bool} {n : Nat}
    (h : exec i s = .next (s.setResultAndFlag x r f).advance) (hr : r.toNat = n) (hc : flagByte f = c) :
    ∃ t, exec i s = .next t ∧ (x ≠ vF → (t.reg x).toNat = n) ∧ t.reg vF = c ∧ t.pc = s.pc + 2 ∧
      FrameHolds (onlyRegAndFlag x) s t := by
  refine ⟨_, h, fun hx => ?_, ?_, rfl, frame_setResultAndFlag ..⟩
  · simpa [hx] using hr
  · simpa using hc

/-- Settles O28: a sum of bytes is the sum of their numbers modulo 256. -/
theorem addSetsCarry : Obligations.AddSetsCarry := fun x y _ =>
  ⟨decodeWord_wordXY_alu x y (by decide), exec_resultAndFlag rfl (BitVec.toNat_add ..) (flagByte_decide _)⟩

/-- Where the subtraction of bytes would borrow, the floored one is 0, as that of natural numbers is (R137). -/
theorem flooredSub_toNat (a b : Byte) : (flooredSub a b).toNat = a.toNat - b.toNat := by
  unfold flooredSub notBorrowOf
  by_cases h : b.toNat ≤ a.toNat
  · rw [decide_eq_true h, if_pos rfl]
    exact BitVec.toNat_sub_of_le h
  · rw [decide_eq_false h, if_neg Bool.false_ne_true, Nat.sub_eq_zero_of_le (Nat.le_of_not_le h)]
    rfl

/-- Settles O29: the floored difference is the subtraction of natural numbers. -/
theorem subFloorsAtZero : Obligations.SubFloorsAtZero := fun x y _ =>
  ⟨decodeWord_wordXY_alu x y (by decide), exec_resultAndFlag rfl (flooredSub_toNat ..) (flagByte_decide _)⟩

theorem wrappingSub_toNat (a b : Byte) : (a - b).toNat = (256 + a.toNat - b.toNat) % 256 := by bv_omega

/-- Settles O30: a difference of bytes is the difference of their numbers modulo 256. -/
theorem subnWraps : Obligations.SubnWraps := fun x y _ =>
  ⟨decodeWord_wordXY_alu x y (by decide), exec_resultAndFlag rfl (wrappingSub_toNat ..) (flagByte_decide _)⟩

/-! ### Shifts by one (42_alu.md R138, R140) -/

theorem State.shiftOperand_eq (s : State) (x y : Reg) :
    s.shiftOperand x y = if s.params.shiftSource = .x then s.reg x else s.reg y := by
  unfold State.shiftOperand
  split <;> simp [*]

theorem shiftLeftOne_toNat (a : Byte) : (a <<< 1).toNat = 2 * a.toNat % 256 := by
  rw [BitVec.toNat_shiftLeft, Nat.shiftLeft_eq, Nat.mul_comm]

theorem lowBitOf_toNat (a : Byte) : (lowBitOf a).toNat = a.toNat % 2 := by
  have hbit : (lowBitOf a).toNat = a.toNat / 1 % 2 := Nat.toNat_testBit a.toNat 0
  rwa [Nat.div_one] at hbit

theorem highBitOf_toNat (a : Byte) : (highBitOf a).toNat = a.toNat / 128 := by
  have hbit : (highBitOf a).toNat = a.toNat / 128 % 2 := Nat.toNat_testBit a.toNat 7
  omega

/-- Settles O31: a shift by one halves or doubles the operand that the parameter names, and the flag is the bit that the
half or the double loses. -/
theorem shiftsByOne : Obligations.ShiftsByOne := by
  intro x y s a ha
  obtain rfl : a = s.shiftOperand x y := ha.trans (s.shiftOperand_eq x y).symm
  constructor
  · obtain ⟨t, ht, hresult, hflag, hrest⟩ :=
      exec_resultAndFlag (i := .shrReg x y) (s := s) rfl (BitVec.toNat_ushiftRight _ 1) rfl
    refine ⟨decodeWord_wordXY_alu x y (by decide), t, ht, hresult, ?_, hrest⟩
    rw [hflag, flagByte_toNat, lowBitOf_toNat]
  · obtain ⟨t, ht, hresult, hflag, hrest⟩ :=
      exec_resultAndFlag (i := .shlReg x y) (s := s) rfl (shiftLeftOne_toNat _) rfl
    refine ⟨decodeWord_wordXY_alu x y (by decide), t, ht, hresult, ?_, hrest⟩
    rw [hflag, flagByte_toNat, highBitOf_toNat]

end Sys2Proof.Machine

/-! PROOFS of the index and memory family (spec/43_index_memory.md): what the index loads write, and the transfers
between registers and memory. A transfer is refused as a whole when its range leaves memory; else it is one run of stores,
or one load, at `I`, and what it leaves is read back address by address or register by register. -/

namespace Sys2Proof.Machine

/-! ### The index register (43_index_memory.md R160 to R162) -/

/-- The highest glyph address is 0x54B, so it fits in 16 bits (R162). -/
theorem State.glyphAddress_toNat (s : State) (x : Reg) : (s.glyphAddress x).toNat = 0x050 + 5 * (s.reg x).toNat := by
  have hbyte : (s.reg x).toNat < 256 := (s.reg x).isLt
  exact Nat.mod_eq_of_lt (a := 0x050 + 5 * (s.reg x).toNat) (by omega)

/-- Settles O34: both write `I` alone, one from the opcode and one the glyph's address. -/
theorem indexLoads : Obligations.IndexLoads := by
  refine ⟨fun nnn s haddr => ⟨?_, _, rfl, rfl, rfl, frame_setI ..⟩,
    fun x s => ⟨?_, _, rfl, s.glyphAddress_toNat x, rfl, frame_setI ..⟩⟩
  · exact decodeWord_of_eq_encode (decide_eq_true haddr) (wordA_eq_encodeA 0xA haddr)
  · exact decodeWord_of_eq_encode rfl (wordXI_eq_encodeXI 0xF x 0x29)

/-- A word plus a byte is the sum of their numbers modulo 65536 (R161). -/
theorem add_setWidth_toNat (w : Word) (b : Byte) : (w + b.setWidth 16).toNat = (w.toNat + b.toNat) % 65536 := by
  bv_omega

/-- Settles O35: it writes `I` alone. -/
theorem indexAddWrapsAt65536 : Obligations.IndexAddWrapsAt65536 := fun x _ =>
  ⟨decodeWord_of_eq_encode rfl (wordXI_eq_encodeXI 0xF x 0x1E), _, rfl, add_setWidth_toNat .., rfl, frame_setI ..⟩

/-! ### Ranges that leave memory (20_memory.md R56, 43_index_memory.md R166) -/

/-- An instruction that raises on the bad address of its range takes the fault with the first address above 0xFFF,
whenever that range leaves memory. -/
theorem exec_addressOutOfRange {i : Instr} {s : State} {n : Nat}
    (raises : ∀ a, firstBadAddress s.i n = some a → exec i s = .next (s.raise .addressOutOfRange a)) (hn : 0 < n)
    (hout : 0x1000 < s.i.toNat + n) :
    ∃ t a, exec i s = .next t ∧ FaultTaken .addressOutOfRange a s t ∧ a.toNat = max s.i.toNat 0x1000 := by
  refine ⟨_, _, raises _ (firstBadAddress_eq_some hn hout), rfl, ?_⟩
  rw [BitVec.toNat_ofNat]
  exact Nat.mod_eq_of_lt (by omega)

theorem exec_ldBcd_raises {x : Reg} {s : State} {a : Word} (h : firstBadAddress s.i 3 = some a) :
    exec (.ldBcd x) s = .next (s.raise .addressOutOfRange a) := by
  simp only [exec, execLdBcd, h]

theorem exec_storeRegs_raises {x : Reg} {s : State} {a : Word} (h : firstBadAddress s.i (x.val + 1) = some a) :
    exec (.storeRegs x) s = .next (s.raise .addressOutOfRange a) := by
  simp only [exec, execStoreRegs, h]

theorem exec_loadRegs_raises {x : Reg} {s : State} {a : Word} (h : firstBadAddress s.i (x.val + 1) = some a) :
    exec (.loadRegs x) s = .next (s.raise .addressOutOfRange a) := by
  simp only [exec, execLoadRegs, h]

/-! ### Decimal digits (43_index_memory.md R163) -/

/-- Each digit as a number: a digit of a byte is below 10, so it fits in its byte. -/
theorem bcdDigits_toNat (b : Byte) :
    (bcdDigits b).map BitVec.toNat = [b.toNat / 100, b.toNat / 10 % 10, b.toNat % 10] := by
  have hbyte : b.toNat < 256 := b.isLt
  have fits {n : Nat} (h : n < 10) : (BitVec.ofNat 8 n).toNat = n := Nat.mod_eq_of_lt (by omega)
  simp only [bcdDigits, List.map_cons, List.map_nil]
  rw [fits (by omega), fits (by omega), fits (by omega)]

/-- After `Fx33` the byte at `I + k` is the `k`-th digit. -/
theorem State.readByte_storedDigits (s : State) (x : Reg) {k : Nat} (hk : k < 3) (hr : s.i.toNat + 2 ≤ 0x0FFF) :
    ((s.writeBytes s.i.toNat (bcdDigits (s.reg x))).advance.readByte (s.i.toNat + k)).toNat =
      [(s.reg x).toNat / 100, (s.reg x).toNat / 10 % 10, (s.reg x).toNat % 10][k] := by
  have hlen : k < (bcdDigits (s.reg x)).length := by rwa [length_bcdDigits]
  rw [State.advance_eq, State.setPc_readByte, s.readByte_writeBytes_at hlen (by omega),
    ← List.getElem_map BitVec.toNat (h := by rwa [List.length_map])]
  simp only [bcdDigits_toNat]

/-- Settles O36: inside memory the three digits read back, and past its end the range is refused. -/
theorem bcdStoresThreeDigits : Obligations.BcdStoresThreeDigits := by
  intro x s
  refine ⟨decodeWord_of_eq_encode rfl (wordXI_eq_encodeXI 0xF x 0x33), fun hr => ?_, fun hout => ?_⟩
  · have digit {k : Nat} (hk : k < 3) := s.readByte_storedDigits x hk hr
    exact ⟨_, exec_ldBcd_in_memory hr, digit (k := 0) (by decide), digit (k := 1) (by decide),
      digit (k := 2) (by decide), rfl, frame_writeBytes _ _ _ _ (length_bcdDigits _) _⟩
  · exact exec_addressOutOfRange (fun _ => exec_ldBcd_raises) (by decide) (Nat.succ_lt_succ hout)

/-! ### Registers to memory and back (43_index_memory.md R164, R165) -/

/-- After `Fx55` the byte at `I + r` is `Vr`. -/
theorem State.readByte_storedRegs (s : State) {x r : Reg} (hle : r ≤ x) (hr : s.i.toNat + x.val ≤ 0x0FFF) :
    (s.writeBytes s.i.toNat (s.regsUpTo x)).advance.readByte (s.i.toNat + r.val) = s.reg r := by
  have hrx : r.val ≤ x.val := hle
  have hlen : r.val < (s.regsUpTo x).length := by rw [State.length_regsUpTo]; omega
  rw [State.advance_eq, State.setPc_readByte, State.readByte_writeBytes_at s hlen (by omega),
    ← List.getD_eq_getElem _ 0 hlen, State.getD_regsUpTo s x hrx]

/-- Settles O37: inside memory each stored register reads back, and past its end the range is refused. -/
theorem storeRegistersToMemory : Obligations.StoreRegistersToMemory := by
  intro x s
  refine ⟨decodeWord_of_eq_encode rfl (wordXI_eq_encodeXI 0xF x 0x55), fun hr => ?_, fun hout => ?_⟩
  · exact ⟨_, exec_storeRegs_in_memory hr, fun _ hle => s.readByte_storedRegs hle hr, rfl,
      frame_writeBytes _ _ _ _ (s.length_regsUpTo x) _⟩
  · exact exec_addressOutOfRange (fun _ => exec_storeRegs_raises) (Nat.succ_pos _) (Nat.succ_lt_succ hout)

/-- `Fx65` with its `x + 1` bytes in memory. -/
theorem exec_loadRegs_in_memory {x : Reg} {s : State} (h : s.i.toNat + x.val ≤ 0x0FFF) :
    exec (.loadRegs x) s = .next (s.setV (s.regsLoadedFrom s.i.toNat x)).advance := by
  have hrange : firstBadAddress s.i (x.val + 1) = none := firstBadAddress_eq_none.mpr (.inr (by omega))
  simp only [exec, execLoadRegs, hrange]

/-- After `Fx65` each register up to `Vx` holds its byte. -/
theorem State.reg_loadedRegs (s : State) {x r : Reg} (hle : r ≤ x) :
    (s.setV (s.regsLoadedFrom s.i.toNat x)).advance.reg r = s.readByte (s.i.toNat + r.val) := by
  rw [State.advance_eq, State.setPc_reg, State.reg_setV_regsLoadedFrom, if_pos hle]

/-- Settles O38: inside memory each register up to `Vx` is loaded, and past its end the range is refused. -/
theorem loadRegistersFromMemory : Obligations.LoadRegistersFromMemory := by
  intro x s
  refine ⟨decodeWord_of_eq_encode rfl (wordXI_eq_encodeXI 0xF x 0x65), fun hr => ?_, fun hout => ?_⟩
  · exact ⟨_, exec_loadRegs_in_memory hr, fun _ hle => s.reg_loadedRegs hle, rfl, frame_loadRegs ..⟩
  · exact exec_addressOutOfRange (fun _ => exec_loadRegs_raises) (Nat.succ_pos _) (Nat.succ_lt_succ hout)

/-- Settles O39: the store leaves `I`, so the load reads the bytes that the store wrote; the registers in between are
not read. -/
theorem storeThenLoadRestoresRegisters : Obligations.StoreThenLoadRestoresRegisters := by
  intro x s t v hr hstore
  obtain rfl := Host.Outcome.next.inj ((exec_storeRegs_in_memory hr).symm.trans hstore)
  exact ⟨_, exec_loadRegs_in_memory hr, fun r hle =>
    (State.reg_loadedRegs _ hle).trans (s.readByte_storedRegs hle hr)⟩

end Sys2Proof.Machine

/-! PROOFS of the display and frame family (spec/44_display_frame.md): what CLS and DRW leave on the display, what a
rendered frame shows of it, and what the frame queue keeps. A draw is refused as a whole when its sprite leaves memory;
else each of its cells and its collision are read once, and drawing twice is the exclusive or with one sprite twice. -/

namespace Sys2Proof.Machine

/-! ### Drawing a sprite (44_display_frame.md R181) -/

/-- The display and the collision that the sprite at `I` gives when its rows are drawn (R181). -/
def State.drawCanvas (s : State) (x y : Reg) (n : Nat) : Canvas :=
  drawRows (s.readBytes s.i.toNat n) (s.reg x).toNat (s.reg y).toNat (s.display, false)

/-- The state after a `Dxyn` whose sprite lies in memory (R181). -/
def State.drawn (s : State) (x y : Reg) (n : Nat) : State :=
  ((s.setDisplay (s.drawCanvas x y n).1).setVF (s.drawCanvas x y n).2).advance

section Draw
variable {s : State} {x y : Reg} {n : Nat}

theorem exec_drw_in_memory (h : firstBadAddress s.i n = none) : exec (.drw x y n) s = .next (s.drawn x y n) := by
  simp only [exec, execDrw, h, State.drawn, State.drawCanvas]

theorem exec_drw_raises {a : Word} (h : firstBadAddress s.i n = some a) :
    exec (.drw x y n) s = .next (s.raise .addressOutOfRange a) := by
  simp only [exec, execDrw, h]

/-- A bit of the sprite covers a cell exactly when one of the rows that are drawn puts a set bit on it. -/
theorem spriteBit_eq_true_iff {px py : Nat} :
    spriteBit s x y n px py = true ↔
      spriteCovers (s.readBytes s.i.toNat n) (s.reg x).toNat (s.reg y).toNat px py := by
  simp only [spriteBit, spriteCovers, Bool.and_eq_true, decide_eq_true_eq, State.length_readBytes]
  constructor
  · rintro ⟨⟨hleft, hright, htop, hbottom⟩, hbit⟩
    exact ⟨htop, hbottom, hleft, hright, by rwa [State.getD_readBytes _ _ (by omega)]⟩
  · rintro ⟨htop, hbottom, hleft, hright, hbit⟩
    exact ⟨⟨hleft, hright, htop, hbottom⟩, by rwa [State.getD_readBytes _ _ (by omega)] at hbit⟩

/-- The cells after a draw: exclusive or with the sprite. -/
theorem State.drawn_cell {px py : Nat} (hx : px < 64) (hy : py < 32) :
    (s.drawn x y n).cell px py = (s.cell px py ^^ spriteBit s x y n px py) := by
  have hcell := drawRows_lit (s.readBytes s.i.toNat n) (s.reg x).toNat (s.reg y).toNat (s.display, false) px py hx hy
  simp only [← spriteBit_eq_true_iff, Bool.decide_eq_true] at hcell
  exact hcell

/-- A draw collides exactly when some lit cell lies under a set bit of the sprite. -/
theorem State.drawCanvas_collision : (s.drawCanvas x y n).2 = true ↔
    ∃ px py, px < 64 ∧ py < 32 ∧ s.cell px py = true ∧ spriteBit s x y n px py = true := by
  simp only [State.drawCanvas, drawRows_collision, Bool.false_eq_true, false_or, spriteBit_eq_true_iff, State.cell,
    and_comm (b := Display.lit _ _ _ = true)]

theorem State.drawn_flag : (s.drawn x y n).reg vF = flagByte (s.drawCanvas x y n).2 := by simp [State.drawn]

theorem State.drawn_reg {r : Reg} (hr : r ≠ vF) : (s.drawn x y n).reg r = s.reg r := by
  simp [State.drawn, hr]

theorem State.frame_drawn : FrameHolds onlyFlagAndDisplay s (s.drawn x y n) := frame_drw ..

/-- A draw leaves what the sprite is made of, unless it overwrites a coordinate. -/
theorem State.spriteBit_drawn (hx : x ≠ vF) (hy : y ≠ vF) (px py : Nat) :
    spriteBit (s.drawn x y n) x y n px py = spriteBit s x y n px py := by
  simp only [spriteBit, State.drawn_reg hx, State.drawn_reg hy]
  rfl

end Draw

/-- Settles O44: the second draw meets the same sprite, and an exclusive or with it twice is none; a refused draw leaves
the display. -/
theorem drawingTwiceRestoresTheDisplay : Obligations.DrawingTwiceRestoresTheDisplay := by
  intro x y n s t u hx hy ht hu
  cases hrange : firstBadAddress s.i n with
  | some a =>
    obtain rfl := Host.Outcome.next.inj ((exec_drw_raises hrange).symm.trans ht)
    obtain rfl := Host.Outcome.next.inj ((exec_drw_raises (s := s.raise .addressOutOfRange a) hrange).symm.trans hu)
    rfl
  | none =>
    obtain rfl := Host.Outcome.next.inj ((exec_drw_in_memory hrange).symm.trans ht)
    obtain rfl := Host.Outcome.next.inj ((exec_drw_in_memory (s := s.drawn x y n) hrange).symm.trans hu)
    refine Display.ext_of_lit fun px py hpx hpy => ?_
    calc ((s.drawn x y n).drawn x y n).cell px py
      _ = ((s.cell px py ^^ spriteBit s x y n px py) ^^ spriteBit s x y n px py) := by
        rw [State.drawn_cell hpx hpy, State.drawn_cell hpx hpy, State.spriteBit_drawn hx hy]
      _ = s.cell px py := by rw [Bool.xor_assoc, Bool.xor_self, Bool.xor_false]

/-- Settles O43: a sprite in memory is drawn, and one that leaves memory is refused. -/
theorem drawXorsTheClippedSprite : Obligations.DrawXorsTheClippedSprite := by
  intro x y n s hn
  refine ⟨decodeWord_of_eq_encode (decide_eq_true hn) (wordXY_eq_encodeXY 0xD x y hn), fun hin => ?_, fun hout => ?_⟩
  · refine ⟨_, exec_drw_in_memory (firstBadAddress_eq_none.mpr (by omega)), fun px py => State.drawn_cell,
      fun hhit => ?_, fun hmiss => ?_, rfl, State.frame_drawn⟩
    · rw [State.drawn_flag, State.drawCanvas_collision.mpr hhit]
      rfl
    · have hclear : (s.drawCanvas x y n).2 = false := Bool.eq_false_iff.mpr fun hcollides => by
        obtain ⟨px, py, hpx, hpy, hlit, hbit⟩ := State.drawCanvas_collision.mp hcollides
        exact Bool.eq_false_iff.mp (hmiss px py hpx hpy hlit) hbit
      rw [State.drawn_flag, hclear]
      rfl
  · exact exec_addressOutOfRange (fun _ => exec_drw_raises) hout.1 (by omega)

/-! ### Clearing the display (44_display_frame.md R180) -/

/-- Settles O42: the display becomes the blank one. -/
theorem clearTurnsEveryCellOff : Obligations.ClearTurnsEveryCellOff :=
  ⟨decodeWord_encode (i := .cls) rfl, fun _ => ⟨_, rfl, Display.lit_blank, rfl, frame_setDisplay ..⟩⟩

/-! ### Frames (44_display_frame.md R185 to R190) -/

/-- A cell of the display is the entry of its row-major place (10_state.md R30). -/
theorem Display.getElem?_cells (d : Display) {px py : Nat} (hx : px < 64) (hy : py < 32) :
    d.cells[py * 64 + px]? = some (d.lit px py) := by
  have hplace : py * 64 + px < d.cells.length := by rw [d.size]; omega
  rw [Display.lit, if_pos ⟨hx, hy⟩, List.getD_eq_getElem _ _ hplace, List.getElem?_eq_getElem hplace]

/-- Settles O45: a frame holds the colour of each cell at the cell's own place. -/
theorem frameShowsTheDisplay : Obligations.FrameShowsTheDisplay := fun s _ _ hx hy => by
  rw [renderFrame, List.getElem?_map, s.display.getElem?_cells hx hy]
  rfl

/-- The queue keeps an end of what was there and the new frame (R188). -/
theorem enqueue_suffix (cap : Nat) (q : List Frame) (f : Frame) : enqueue cap q f <:+ q ++ [f] := List.drop_suffix ..

/-- A cap of at least 1 keeps the new frame, as the newest (R188). -/
theorem exists_enqueue_eq_append {cap : Nat} (hcap : 1 ≤ cap) (q : List Frame) (f : Frame) :
    ∃ q', enqueue cap q f = q' ++ [f] := by
  have hdropped : (q ++ [f]).length - cap ≤ q.length := by rw [List.length_append, List.length_singleton]; omega
  exact ⟨_, List.drop_append_of_le_length hdropped⟩

/-- A scheduled consume answers the newest frame and empties the queue (R189). -/
theorem step_consumeFrame {s : State} {rest : List Move} (h : s.schedule = .host .consumeFrame :: rest) :
    step s = .next { s with frames := [], schedule := rest, reply := some (.frame s.newestFrame) } := step_cons h

/-- Settles O46: an enqueue drops a front of the queue, and the newest frame is the last one. -/
theorem queueDropsOldestAndConsumesNewest : Obligations.QueueDropsOldestAndConsumesNewest := by
  refine ⟨fun cap q f => ?_, fun s rest hs => ⟨fun hempty => ?_, fun q f hq => ?_⟩, fun _ q f hcap =>
    exists_enqueue_eq_append hcap q f⟩
  · obtain ⟨old, hold⟩ := enqueue_suffix cap q f
    exact ⟨old, hold.symm, length_enqueue ..⟩
  · rw [step_consumeFrame hs]
    simp [State.newestFrame, hempty]
  · rw [step_consumeFrame hs]
    simp [State.newestFrame, hq]

end Sys2Proof.Machine

/-! PROOFS of the keypad family (spec/45_keypad.md): what the key instructions ask of the mask, what the Host's key events
do to it, and that nothing else writes it. The model's test of a key and its two updates of the mask are read once, as the
statements' `KeyIsDown` and bit by bit. -/

namespace Sys2Proof.Machine

/-! ### The mask, key by key (45_keypad.md R203 to R205) -/

theorem keyDown_eq_decide (s : State) (k : Nat) : keyDown s.keys k = decide (KeyIsDown s k) := by
  rw [keyDown, Bool.decide_and, Bool.decide_eq_true]

/-- The bit of a key code 0 to 15 is that key's alone. -/
theorem getLsbD_keyBit {k : Nat} (hk : k ≤ 15) (j : Nat) : (1#16 <<< k).getLsbD j = decide (j = k) := by
  have hlt : k < 16 := Nat.lt_succ_of_le hk
  rw [← BitVec.twoPow_eq, BitVec.getLsbD_twoPow, decide_eq_true hlt, Bool.true_and, decide_eq_decide]
  exact eq_comm

/-- A key code above 15 names no bit of the mask (decision D19). -/
theorem decide_eq_key_of_above {k j : Nat} (hk : ¬ k ≤ 15) (hj : j < 16) : decide (j = k) = false :=
  decide_eq_false (by omega)

theorem getLsbD_pressKey (keys : BitVec 16) (k : Nat) {j : Nat} (hj : j < 16) :
    (pressKey keys k).getLsbD j = (keys.getLsbD j || decide (j = k)) := by
  by_cases hk : k ≤ 15
  · rw [pressKey, if_pos hk, BitVec.getLsbD_or, getLsbD_keyBit hk]
  · rw [pressKey, if_neg hk, decide_eq_key_of_above hk hj, Bool.or_false]

theorem getLsbD_releaseKey (keys : BitVec 16) (k : Nat) {j : Nat} (hj : j < 16) :
    (releaseKey keys k).getLsbD j = (keys.getLsbD j && !decide (j = k)) := by
  by_cases hk : k ≤ 15
  · rw [releaseKey, if_pos hk, BitVec.getLsbD_and, BitVec.getLsbD_not, getLsbD_keyBit hk, decide_eq_true hj,
      Bool.true_and]
  · rw [releaseKey, if_neg hk, decide_eq_key_of_above hk hj, Bool.not_false, Bool.and_true]

/-! ### The key instructions (45_keypad.md R200 to R202) -/

theorem exec_skp (x : Reg) (s : State) :
    exec (.skp x) s = .next (s.skipIf (decide (KeyIsDown s (s.reg x).toNat))) := by
  rw [← keyDown_eq_decide]
  rfl

theorem exec_sknp (x : Reg) (s : State) :
    exec (.sknp x) s = .next (s.skipIf (decide (¬ KeyIsDown s (s.reg x).toNat))) := by
  rw [decide_not, ← keyDown_eq_decide]
  rfl

/-- Settles O47: both are skips on their condition, which is the model's own test of the key. -/
theorem skipsOnKeys : Obligations.SkipsOnKeys := by
  intro x s
  refine ⟨⟨?_, _, exec_skp x s, s.skipIf_decide_pc _, frame_skipIf ..⟩,
    ⟨?_, _, exec_sknp x s, (s.skipIf_decide_pc _).trans (ite_not ..), frame_skipIf ..⟩⟩
  · exact decodeWord_of_eq_encode rfl (wordXI_eq_encodeXI 0xE x 0x9E)
  · exact decodeWord_of_eq_encode rfl (wordXI_eq_encodeXI 0xE x 0xA1)

theorem exec_ldKey_of_no_key {s : State} (x : Reg) (h : lowestKey s.keys = none) :
    exec (.ldKey x) s = .next s := by
  simp only [exec, execLdKey, h]

theorem exec_ldKey_of_key {s : State} {k : Nat} (x : Reg) (h : lowestKey s.keys = some k) :
    exec (.ldKey x) s = .next (s.setReg x (BitVec.ofNat 8 k)).advance := by
  simp only [exec, execLdKey, h]

/-- The key that is found is the least one down (decision D18). -/
theorem keyIsDown_of_lowestKey {s : State} {k : Nat} (h : lowestKey s.keys = some k) :
    KeyIsDown s k ∧ ∀ j < k, ¬ KeyIsDown s j := by
  obtain ⟨hk, hdown, hleast⟩ := lowestKey_eq_some h
  exact ⟨⟨Nat.le_of_lt_succ hk, hdown⟩, fun j hj hd => Bool.eq_false_iff.mp (hleast j hj) hd.2⟩

/-- Settles O48: a zero mask has no least key and the step changes nothing; any other has one, and its code fits in a
register. -/
theorem keyWaitRetriesOrStoresLeastKey : Obligations.KeyWaitRetriesOrStoresLeastKey := by
  intro x s
  refine ⟨decodeWord_of_eq_encode rfl (wordXI_eq_encodeXI 0xF x 0x0A), fun hup =>
    exec_ldKey_of_no_key x (lowestKey_eq_none.mpr hup), fun hdown => ?_⟩
  obtain ⟨k, hk⟩ := Option.ne_none_iff_exists'.mp (mt lowestKey_eq_none.mp hdown)
  obtain ⟨hkey, hleast⟩ := keyIsDown_of_lowestKey hk
  refine ⟨_, k, exec_ldKey_of_key x hk, hkey, hleast, ?_, rfl, frame_setReg ..⟩
  rw [State.reg_advance_setReg, BitVec.toNat_ofNat]
  exact Nat.mod_eq_of_lt (Nat.lt_of_le_of_lt hkey.1 (by decide))

/-! ### The Host's key events (45_keypad.md R203 to R206) -/

section KeyEvents
variable {s : State} {k : Nat} {rest : List Move}

theorem step_press (h : s.schedule = .host (.press k) :: rest) :
    step s = .next { s with keys := pressKey s.keys k, schedule := rest, reply := some .done } := step_cons h

theorem step_release (h : s.schedule = .host (.release k) :: rest) :
    step s = .next { s with keys := releaseKey s.keys k, schedule := rest, reply := some .done } := step_cons h

theorem step_pressed (h : s.schedule = .host (.pressed k) :: rest) :
    step s = .next { s with schedule := rest, reply := some (.pressed (keyDown s.keys k)) } := step_cons h

end KeyEvents

/-- Settles O49: no key event looks at the run state, and each is read off the mask bit by bit. -/
theorem keyEventsUpdateOneBit : Obligations.KeyEventsUpdateOneBit := by
  refine fun s k rest => ⟨fun h => ⟨_, step_press h, fun _ => getLsbD_pressKey s.keys k⟩,
    fun h => ⟨_, step_release h, fun _ => getLsbD_releaseKey s.keys k⟩, fun h => ?_⟩
  rw [step_pressed h, keyDown_eq_decide]

/-! ### The writers of the mask (45_keypad.md R206) -/

theorem State.countStep_keys (s : State) : s.countStep.keys = s.keys := by
  obtain ⟨-, e⟩ | ⟨-, e⟩ := s.countStep_cases <;> rw [e] <;> rfl

theorem engineStep_keys {s t : State} (h : engineStep s = .next t) : t.keys = s.keys := by
  obtain ⟨-, -, ⟨-, rfl⟩ | ⟨-, -, rfl⟩ | ⟨-, i, -, ⟨c, w, -, -, rfl⟩ | ⟨u, -, hu, rfl⟩⟩⟩ := engineStep_cases h
  · rfl
  · rfl
  · rfl
  · rw [State.countStep_keys, hu.keys]

theorem hostLoad_keys {rom : List Byte} {s t : State} (h : hostLoad rom s = .next t) : t.keys = s.keys := by
  obtain ⟨-, ⟨-, rfl⟩ | ⟨-, rfl⟩⟩ := hostLoad_cases h <;> rfl

/-- The move is the Host's press or release of some key. -/
def Move.IsKeyEvent (m : Move) : Prop := ∃ k, m = .host (.press k) ∨ m = .host (.release k)

theorem hostStep_keys {op : HostOp} {s t : State} (hop : ¬ (Move.host op).IsKeyEvent)
    (h : hostStep op s = .next t) : t.keys = s.keys := by
  cases op with
  | press k => exact absurd ⟨k, .inl rfl⟩ hop
  | release k => exact absurd ⟨k, .inr rfl⟩ hop
  | loadBuffer rom => exact hostLoad_keys h
  | loadFile file =>
    cases file with
    | bytes rom => exact hostLoad_keys h
    | ioError code =>
      obtain ⟨-, rfl⟩ := loadStep_cases h
      rfl
  | run => obtain ⟨-, rfl⟩ | ⟨-, rfl⟩ := hostRun_cases h <;> rfl
  | stop =>
    cases h
    obtain ⟨-, -, e⟩ | ⟨-, -, e⟩ | ⟨-, e⟩ := stopRun_cases s <;> rw [e] <;> rfl
  | consumeFrame | pressed | readFault => cases h; rfl

/-- A move of any agent that is no key event leaves the mask. -/
theorem moveStep_keys {m : Move} {s t : State} (hm : ¬ m.IsKeyEvent) (h : moveStep m s = .next t) :
    t.keys = s.keys := by
  cases m with
  | engine => exact engineStep_keys h
  | tickRead =>
    obtain ⟨-, -, -, rfl⟩ := tickRead_cases h
    rfl
  | tickWrite =>
    obtain ⟨d, e, -, rfl⟩ := tickWrite_cases h
    exact State.stopReturns_keys _
  | timerTick =>
    obtain ⟨-, -, rfl⟩ := timerTick_cases h
    rfl
  | host op => exact hostStep_keys hm h

/-- Settles O50: every other move leaves the mask, and a key event has a next state whatever the state is. -/
theorem onlyKeyEventsChangeTheMask : Obligations.OnlyKeyEventsChangeTheMask := by
  refine ⟨fun s t h hchanged => ?_, fun s k rest hs => ?_⟩
  · obtain ⟨-, he⟩ | ⟨m, rest, hs, hm⟩ := step_cases h
    · exact absurd (engineStep_keys he) hchanged
    · have hkey : m.IsKeyEvent := by
        by_contra hnone
        exact hchanged (moveStep_keys (s := s.setSchedule rest) hnone hm)
      obtain ⟨k, rfl | rfl⟩ := hkey
      · exact ⟨k, rest, .inl hs⟩
      · exact ⟨k, rest, .inr hs⟩
  · obtain hs | hs := hs
    · exact ⟨_, step_press hs⟩
    · exact ⟨_, step_release hs⟩

end Sys2Proof.Machine

/-! PROOFS of the timers family (spec/46_timers.md): what the timer instructions read and write, and the TimerPair's
tick, in one step and in two. Each of the tick's moves has one next state where it is enabled and is refused elsewhere; the
lost update follows, since the tick's write-back reads the latch alone. -/

namespace Sys2Proof.Machine

/-! ### The timer instructions (46_timers.md R215 to R217) -/

/-- Settles O52: each copies one byte and advances; the sound is on by the definition of `soundActive`. -/
theorem timerReadsAndWrites : Obligations.TimerReadsAndWrites := by
  intro x s
  refine ⟨⟨?_, _, rfl, s.reg_advance_setReg .., rfl, frame_setReg ..⟩, ⟨?_, _, rfl, rfl, rfl, frame_setDt ..⟩,
    ⟨?_, _, rfl, rfl, rfl, rfl, frame_setSt ..⟩⟩
  · exact decodeWord_of_eq_encode rfl (wordXI_eq_encodeXI 0xF x 0x07)
  · exact decodeWord_of_eq_encode rfl (wordXI_eq_encodeXI 0xF x 0x15)
  · exact decodeWord_of_eq_encode rfl (wordXI_eq_encodeXI 0xF x 0x18)

/-! ### Where a tick's moves are refused (46_timers.md R218, R219) -/

section Refused
variable {s : State}

theorem timerTick_refused (h : s.params.tickAtomic = false ∨ s.runState ≠ .running) :
    timerTick s = .refused .timerTickNotEnabled := by
  refine if_neg fun ⟨atomic, running⟩ => ?_
  obtain twoStep | halted := h
  · exact Bool.false_ne_true (twoStep.symm.trans atomic)
  · exact halted running

theorem tickRead_refused (h : s.params.tickAtomic = true ∨ s.runState ≠ .running ∨ s.tickLatch ≠ .idle) :
    tickRead s = .refused .tickReadNotEnabled := by
  refine if_neg fun ⟨twoStep, running, idle⟩ => ?_
  obtain atomic | halted | inFlight := h
  · exact Bool.false_ne_true (twoStep.symm.trans atomic)
  · exact halted running
  · exact inFlight idle

theorem tickWrite_refused (h : s.tickLatch = .idle) : tickWrite s = .refused .tickWriteNotEnabled := by
  simp only [tickWrite, h]

end Refused

/-! ### The atomic tick (46_timers.md R218) -/

/-- Settles O53: where the tick is enabled it counts both timers down, and elsewhere it is refused. -/
theorem atomicTickDecrementsBothTimers : Obligations.AtomicTickDecrementsBothTimers := by
  intro s rest hs
  rw [step_cons hs]
  exact ⟨fun atomic running => ⟨_, _, timerTick_next atomic running, countDown_toNat s.dt, countDown_toNat s.st⟩,
    timerTick_refused (s := s.setSchedule rest)⟩

/-! ### The tick in two steps (46_timers.md R219) -/

/-- A scheduled write-back counts down the latched bytes, and a Stop that waits returns with it. -/
theorem step_tickWrite {s : State} {rest : List Move} {d e : Byte} (hs : s.schedule = .tickWrite :: rest)
    (hl : s.tickLatch = .latched d e) :
    step s = .next (State.stopReturns
      { s with dt := countDown d, st := countDown e, tickLatch := .idle, schedule := rest }) :=
  (step_cons hs).trans (tickWrite_next (s := s.setSchedule rest) hl)

/-- Settles O54: the read latches both timers and the write counts both latched values down, each refused where it is
not enabled; a Stop returns with the write exactly when one waits. -/
theorem twoStepTickLatchesThenWritesBack : Obligations.TwoStepTickLatchesThenWritesBack := by
  refine fun s rest => ⟨fun hs twoStep running idle => ?_, fun hs disabled => ?_, fun hs idle => ?_,
    fun d e hs inFlight => ⟨_, _, countDown_toNat d, countDown_toNat e, fun notPending => ?_, fun pending => ?_⟩⟩
  · exact (step_cons hs).trans (tickRead_next (s := s.setSchedule rest) twoStep running idle)
  · exact (step_cons hs).trans (tickRead_refused (s := s.setSchedule rest) disabled)
  · exact (step_cons hs).trans (tickWrite_refused (s := s.setSchedule rest) idle)
  · exact (step_tickWrite hs inFlight).trans (congrArg _ (State.stopReturns_of_not_pending notPending))
  · exact (step_tickWrite hs inFlight).trans (congrArg _ (State.stopReturns_of_pending pending))

/-- Whatever the timers hold by then, the write-back leaves the decrements of the latched bytes. -/
theorem tickWrite_timers {s : State} {d e : Byte} (hl : s.tickLatch = .latched d e) :
    ∃ t, tickWrite s = .next t ∧ t.dt.toNat = d.toNat - 1 ∧ t.st.toNat = e.toNat - 1 := by
  refine ⟨_, tickWrite_next hl, ?_, ?_⟩
  · rw [State.stopReturns_dt]
    exact countDown_toNat d
  · rw [State.stopReturns_st]
    exact countDown_toNat e

/-- Settles O55: `Fx15` leaves the latch as the read filled it. -/
theorem tickInFlightOverwritesTimerWrite : Obligations.TickInFlightOverwritesTimerWrite := by
  intro x s twoStep running idle
  have inFlight : ((s.setTickLatch (.latched s.dt s.st)).setDt (s.reg x)).advance.tickLatch = .latched s.dt s.st := rfl
  obtain ⟨c, hwrite, hdt, hst⟩ := tickWrite_timers inFlight
  exact ⟨_, _, c, tickRead_next twoStep running idle, rfl, rfl, hwrite, hdt, hst⟩

end Sys2Proof.Machine

/-! PROOFS of the families of exceptions, reset and hazards (spec/60_exceptions.md, spec/70_reset_and_hazards.md): how
the schedule interleaves the agents, which fault an Engine step takes, and what the Host's Run, Stop and loads do and
leave alone. -/

namespace Sys2Proof.Machine

/-! ### The schedule (60_exceptions.md R243) -/

theorem State.setSchedule_finishStep (s : State) (rest : List Move) :
    (s.setSchedule rest).finishStep = s.finishStep.setSchedule rest := by
  unfold State.finishStep State.countStep
  rw [State.setSchedule_faultLatch, State.setSchedule_bc, State.setSchedule_params]
  split
  · split <;> rfl
  · rfl

/-- The Engine's step neither reads nor writes what is scheduled after it. -/
theorem engineStep_setSchedule {s t : State} (rest : List Move) (h : engineStep s = .next t) :
    engineStep (s.setSchedule rest) = .next (t.setSchedule rest) := by
  obtain ⟨running, noFault, stage⟩ := engineStep_cases h
  have enabled : (s.setSchedule rest).runState = .running ∧ (s.setSchedule rest).faultLatch = none :=
    ⟨running, noFault⟩
  obtain ⟨hp, rfl⟩ | ⟨hp, hd, rfl⟩ | ⟨hp, i, hd, -⟩ := stage
  · exact engineStep_of_refused enabled hp
  · exact engineStep_of_undecodable enabled hp hd
  · obtain ⟨u, hx, hx'⟩ := exec_setSchedule i s rest
    rw [engineStep_of_decoded ⟨running, noFault⟩ hp hd hx] at h
    cases h
    rw [engineStep_of_decoded enabled hp hd hx', State.setSchedule_finishStep]

/-- Settles O6: a step is its scheduled move by definition, and the Engine's own step commutes with the schedule. -/
theorem scheduledMoveIsTakenNext : Obligations.ScheduledMoveIsTakenNext := fun s rest =>
  ⟨fun _ => step_cons, step_nil, fun hs t h => by
    have engine : engineStep (s.setSchedule []) = .next t := (step_nil rfl).symm.trans h
    exact (step_cons hs).trans (engineStep_setSchedule (s := s.setSchedule []) rest engine)⟩

/-! ### The faults of decode and of execute (60_exceptions.md R231 to R234) -/

/-- Settles O9: the two bytes at `pc` are the opcode, which no row decodes, and decode raises after the fetch check. -/
theorem illegalOpcodeIsFatal : Obligations.IllegalOpcodeIsFatal := by
  intro s op ⟨hs, enabled⟩ hgood hbytes hnoRow
  have hfetch : s.fetch = op := BitVec.eq_of_toNat_eq ((opcodeOfBytes_toNat ..).trans hbytes.symm)
  obtain ⟨-, -, undecodable, -⟩ := decoderFollowsOpcodeMap
  rw [step_nil hs, engineStep_of_undecodable enabled (State.pcRefused_of_not_badPc hgood)
    (hfetch ▸ undecodable op hnoRow), hfetch]
  exact ⟨_, rfl, rfl⟩

/-- The instruction `i` can raise the fault at `s` (60_exceptions.md R232 to R234). -/
inductive CanRaise (s : State) : Instr → FaultCode → Prop where
  | ret (empty : s.stack = []) : CanRaise s .ret .stackUnderflow
  | call (nnn : Word) (full : s.params.stackDepth = some s.stack.length) : CanRaise s (.call nnn) .stackOverflow
  | drw (x y : Reg) (n : Nat) : CanRaise s (.drw x y n) .addressOutOfRange
  | ldBcd (x : Reg) : CanRaise s (.ldBcd x) .addressOutOfRange
  | storeRegs (x : Reg) : CanRaise s (.storeRegs x) .addressOutOfRange
  | loadRegs (x : Reg) : CanRaise s (.loadRegs x) .addressOutOfRange

/-- A fault that an instruction latches is one it can raise. -/
theorem exec_canRaise {i : Instr} {s t : State} {f : Latched} (hx : exec i s = .next t) (hnone : s.faultLatch = none)
    (hf : t.faultLatch = some f) : CanRaise s i f.code := by
  have unlatched : t.faultLatch ≠ s.faultLatch := fun e => nomatch hf.symm.trans (e.trans hnone)
  cases i with
  | ret =>
    cases hs : s.stack with
    | nil =>
      rw [exec_ret_nil hs] at hx
      cases hx; cases hf
      exact .ret hs
    | cons a rest =>
      rw [exec_ret_cons hs] at hx
      cases hx
      exact absurd rfl unlatched
  | call nnn =>
    by_cases full : s.params.stackDepth = some s.stack.length
    · rw [exec_call_full nnn full] at hx
      cases hx; cases hf
      exact .call nnn full
    · rw [exec_call_room nnn full] at hx
      cases hx
      exact absurd rfl unlatched
  | drw | ldBcd | storeRegs | loadRegs =>
    simp only [exec, execDrw, execLdBcd, execStoreRegs, execLoadRegs] at hx
    split at hx <;> cases hx
    · cases hf
      constructor
    · exact absurd rfl unlatched
  | ldKey =>
    simp only [exec, execLdKey] at hx
    split at hx <;> cases hx <;> exact absurd rfl unlatched
  | _ => cases hx; exact absurd rfl unlatched

theorem FaultCode.OfExecute.ne_of_earlier_stage {c : FaultCode} (hc : c.OfExecute) :
    c ≠ .pcOutOfRange ∧ c ≠ .invalidOpcode := by
  rcases hc with rfl | rfl | rfl <;> decide

theorem not_badPc_of_accepted {s : State} (hp : s.pcRefused = false) : ¬ BadPc s :=
  mt badPc_iff.mp (Bool.eq_false_iff.mp hp)

/-- Settles O11: the stage that raised the fault decides the first two clauses, and what an instruction can raise the
others. -/
theorem faultsFollowTheStageOrder : Obligations.FaultsFollowTheStageOrder := by
  rintro s t ⟨code, info⟩ ⟨hs, enabled⟩ h hf
  rw [step_nil hs] at h
  cases (engineStep_raised h hf).2 with
  | fetchCheck hp e =>
    cases e
    have hbad : BadPc s := badPc_iff.mpr hp
    exact ⟨iff_of_true rfl hbad, iff_of_false nofun fun hgood => hgood.1 hbad, nofun, nofun, nofun⟩
  | decode hp hd e =>
    cases e
    have hgood : ¬ BadPc s := not_badPc_of_accepted hp
    have undecodable : ∀ i, ¬ Fetches s i := fun i hi => nomatch hd.symm.trans (fetches_iff.mp hi)
    exact ⟨iff_of_false nofun hgood, iff_of_true rfl ⟨hgood, undecodable⟩, nofun, nofun, nofun⟩
  | execute i hp hd hc hx =>
    have hgood : ¬ BadPc s := not_badPc_of_accepted hp
    have hfetch : Fetches s i := fetches_iff.mpr hd
    have hraise : CanRaise s i code := exec_canRaise hx enabled.2 rfl
    obtain ⟨notFetchCheck, notDecode⟩ := hc.ne_of_earlier_stage
    refine ⟨iff_of_false notFetchCheck hgood, iff_of_false notDecode fun hn => hn.2 i hfetch,
      ?_, ?_, ?_⟩ <;> rintro rfl
    · cases hraise with
      | ret empty => exact ⟨hfetch, empty⟩
    · cases hraise with
      | call nnn full => exact ⟨nnn, hfetch, full⟩
    · cases hraise with
      | drw x y n => exact .inl ⟨x, y, n, hfetch⟩
      | ldBcd x => exact .inr (.inl ⟨x, hfetch⟩)
      | storeRegs x => exact .inr (.inr (.inl ⟨x, hfetch⟩))
      | loadRegs x => exact .inr (.inr (.inr ⟨x, hfetch⟩))

/-! ### Run and Stop (60_exceptions.md R244 to R246) -/

theorem hostRun_of_running {s : State} (hr : s.runState = .running) :
    hostRun s = .next (s.setReply (some .done)) := by
  rw [hostRun, State.resume, if_pos hr, State.answer_eq]

theorem hostRun_of_not_running {s : State} (hr : s.runState ≠ .running) :
    hostRun s = .next ((((s.setRunState .running).setFaultLatch none).setBc 0).setReply (some .done)) := by
  rw [hostRun, State.resume, if_neg hr, State.answer_eq]

theorem State.stopRun_of_tick_idle {s : State} (hr : s.runState = .running) (hl : s.tickLatch = .idle) :
    s.stopRun = (s.setRunState .stopped).setReply (some .done) := by
  rw [State.stopRun, if_pos hr, if_pos hl, State.answer_eq]

theorem State.stopRun_of_not_running {s : State} (hr : s.runState ≠ .running) :
    s.stopRun = s.setReply (some .notRunning) := if_neg hr

/-- Settles O56: each case is one branch of Run or of Stop. -/
theorem runAndStop : Obligations.RunAndStop := by
  refine fun s rest => ⟨fun hs halted => ?_, fun hs running => ?_, fun hs running idle => ?_,
    fun hs running inFlight => ?_, fun hs halted => ?_⟩
  · exact (step_cons hs).trans (hostRun_of_not_running (s := s.setSchedule rest) halted)
  · exact (step_cons hs).trans (hostRun_of_running (s := s.setSchedule rest) running)
  · exact (step_cons hs).trans (congrArg _ (State.stopRun_of_tick_idle (s := s.setSchedule rest) running idle))
  · exact (step_cons hs).trans (congrArg _ (State.stopRun_of_tick_in_flight (s := s.setSchedule rest) running inFlight))
  · exact (step_cons hs).trans (congrArg _ (State.stopRun_of_not_running (s := s.setSchedule rest) halted))

/-! ### The loads (70_reset_and_hazards.md R263 to R265, 60_exceptions.md R248, R249) -/

theorem loadStep_refused {s : State} (loaded : State) (hr : s.runState = .running) :
    loadStep loaded s = .refused .loadWhileRunning := if_pos hr

theorem State.loadRom_fits {rom : List Byte} (s : State) (fits : rom.length ≤ 3584) :
    s.loadRom rom = (s.writeBytes 0x200 rom).setReply (some .done) := if_pos fits

theorem State.loadRom_too_large {rom : List Byte} (s : State) (tooLarge : 3584 < rom.length) :
    s.loadRom rom = s.setReply (some .romTooLarge) := if_neg (Nat.not_le_of_lt tooLarge)

/-- A load of a machine that does not run is taken, whether the ROM fits or not (R264). -/
theorem step_loadBuffer {s : State} {rom : List Byte} {rest : List Move}
    (hs : s.schedule = .host (.loadBuffer rom) :: rest) (hr : s.runState ≠ .running) :
    step s = .next ((s.setSchedule rest).loadRom rom) :=
  (step_cons hs).trans (loadStep_next (s := s.setSchedule rest) _ hr)

/-- A ROM that fits ends within memory, so every byte of it is stored (R263). -/
theorem State.readByte_loadedRom {rom : List Byte} (s : State) (fits : rom.length ≤ 3584) (a : Nat) :
    (s.writeBytes 0x200 rom).readByte a =
      if 0x200 ≤ a ∧ a < 0x200 + rom.length then rom.getD (a - 0x200) 0 else s.readByte a := by
  rw [State.readByte_writeBytes]
  exact if_congr (by simp only [Config.memSize]; omega) rfl rfl

/-- Settles O57: a ROM that fits is one run of stores from 0x200, and a longer one only answers. -/
theorem loadCopiesRomOrRefuses : Obligations.LoadCopiesRomOrRefuses := by
  intro s rom rest hs halted
  rw [step_loadBuffer hs halted]
  refine ⟨fun fits => ?_, fun tooLarge => ?_⟩
  · rw [State.loadRom_fits _ fits]
    exact ⟨_, rfl, rfl, (s.setSchedule rest).readByte_loadedRom fits⟩
  · rw [State.loadRom_too_large _ tooLarge]
    rfl

theorem hostLoadFile_refused {s : State} (file : FileRead) (hr : s.runState = .running) :
    hostLoadFile file s = .refused .loadWhileRunning := by
  cases file <;> exact loadStep_refused _ hr

/-- Settles O58: a file that was read is loaded as a buffer is, and each load passes the one check of the run state. -/
theorem loadFileAndLoadWhileRunning : Obligations.LoadFileAndLoadWhileRunning := by
  refine fun s rest => ⟨fun rom hs => (step_cons hs).trans rfl, fun code hs halted => ?_,
    fun load hload hs running => ?_⟩
  · exact (step_cons hs).trans (loadStep_next (s := s.setSchedule rest) _ halted)
  · obtain ⟨rom, rfl⟩ | ⟨file, rfl⟩ := hload
    · exact (step_cons hs).trans (loadStep_refused (s := s.setSchedule rest) _ running)
    · exact (step_cons hs).trans (hostLoadFile_refused (s := s.setSchedule rest) file running)

/-! ### What the Host's operations leave alone (60_exceptions.md R248 to R250) -/

/-- A Host operation has a next state unless it is a load of a running machine (R248). -/
theorem hostStep_next {op : HostOp} {s : State}
    (h : s.runState ≠ .running ∨ ((∀ rom, op ≠ .loadBuffer rom) ∧ ∀ file, op ≠ .loadFile file)) :
    ∃ t, hostStep op s = .next t := by
  cases op with
  | loadBuffer rom =>
    have halted := h.resolve_right fun hop => hop.1 rom rfl
    exact ⟨_, loadStep_next _ halted⟩
  | loadFile file =>
    have halted := h.resolve_right fun hop => hop.2 file rfl
    cases file <;> exact ⟨_, loadStep_next _ halted⟩
  | _ => exact ⟨_, rfl⟩

theorem hostLoad_faultLatch {rom : List Byte} {s t : State} (h : hostLoad rom s = .next t) :
    t.faultLatch = s.faultLatch := by
  obtain ⟨-, ⟨-, rfl⟩ | ⟨-, rfl⟩⟩ := hostLoad_cases h <;> rfl

/-- Only Run, and no other Host operation, changes the fault latch (R244, R250). -/
theorem hostStep_faultLatch {op : HostOp} {s t : State} (hop : op ≠ .run) (h : hostStep op s = .next t) :
    t.faultLatch = s.faultLatch := by
  cases op with
  | run => exact absurd rfl hop
  | loadBuffer rom => exact hostLoad_faultLatch h
  | loadFile file =>
    cases file with
    | bytes rom => exact hostLoad_faultLatch h
    | ioError code =>
      obtain ⟨-, rfl⟩ := loadStep_cases h
      rfl
  | stop =>
    cases h
    obtain ⟨-, -, e⟩ | ⟨-, -, e⟩ | ⟨-, e⟩ := stopRun_cases s <;> rw [e] <;> rfl
  | _ => cases h; rfl

section Untouched

variable {s t : State}

/-- The Host touches neither the timers nor the tick in flight (R250). -/
theorem HostEffect.timers (h : HostEffect s t) : t.dt = s.dt ∧ t.st = s.st ∧ t.tickLatch = s.tickLatch := by
  cases h <;> exact ⟨rfl, rfl, rfl⟩

/-- A load begins at 0x200, and no other Host operation writes memory (70_reset_and_hazards.md R263). -/
theorem HostEffect.readByte_below_origin (h : HostEffect s t) {a : Nat} (ha : a < 0x200) :
    t.readByte a = s.readByte a := by
  cases h with
  | loaded => exact s.readByte_writeBytes_outside (.inl ha)
  | _ => rfl

theorem SameEngineState.reg (h : SameEngineState s t) (r : Reg) : t.reg r = s.reg r :=
  congrArg (fun v : Vector Byte 16 => v[r]) h.v

end Untouched

/-- Settles O59: the effects of the Host's operations leave the Engine's state, the timers and low memory alone, and
only Run touches the latch. -/
theorem hostWritesOnlyItsOwn : Obligations.HostWritesOnlyItsOwn := by
  refine ⟨fun s op rest hs hop => ?_, fun s t op rest hs h => ?_, fun s rest hs => step_cons hs⟩
  · rw [step_cons hs]
    exact hostStep_next (s := s.setSchedule rest) hop
  · have host : hostStep op (s.setSchedule rest) = .next t := (step_cons hs).symm.trans h
    have effect := hostStep_effect host
    have engine := effect.sameEngineState
    obtain ⟨dt, st, tickLatch⟩ := effect.timers
    exact ⟨engine.reg, engine.i, engine.pc, engine.stack, engine.display, dt, st, tickLatch, engine.rng,
      fun hop => hostStep_faultLatch (s := s.setSchedule rest) hop host, fun _ => effect.readByte_below_origin⟩

end Sys2Proof.Machine
